-- ==== Sys2Proof/Word.lean ====
section
/-! DEFINITION. The widths of the block's values (spec/00_scope.md R7, R8, R10). -/
namespace Sys2Proof

/-- A byte: 8 bits, unsigned (R7). -/
abbrev Byte := BitVec 8

/-- A packet, command or response: 9 bytes, offset 0 first (R47, R53). -/
abbrev Packet := Vector Byte 9

/-- The payload of a command: 5 bytes, p0 first (R8, R51). -/
abbrev Payload := Vector Byte 5

/-- A decoded concentration: 16 bits, unsigned (R8 `PPM_WIDTH`). -/
abbrev Ppm := BitVec 16

/-- A status code: 3 bits (R20, R115). -/
abbrev StatusCode := BitVec 3

end Sys2Proof
end

