-- ==== Sys2Proof/Config.lean ====
section
/-! DEFINITION. What the spec leaves open: the free values. The protocol's constants (R8) are not open and stand in
Machine/Params.lean. The transport (R9), the one open parameter of the block, is data in State (log 1). -/
namespace Sys2Proof

/-- What `ppm` holds after a completion that does not define it (R22, U5): any 16-bit value, one for each draw (log 6). -/
opaque Config.freePpm : Nat → Ppm

/-- What `resp[0..8]` holds after a completion that does not define it (R23, U6): any nine bytes, one for each draw (log 6). -/
opaque Config.freeResp : Nat → Packet

/-- Whether the transport call in progress at a reset moved its byte (R136, U4): either, one answer for each draw (log 7). -/
opaque Config.freeMoved : Nat → Bool

end Sys2Proof
end

