-- ==== Sys2Proof/Syntax.lean ====
section
/-! DEFINITION. The instructions: one constructor for each row of spec/opcode_table.json, and the three formats of
spec/30_encoding.md section 7. -/
namespace Sys2Proof

/-- The three formats of the opcode table (30_encoding.md section 7). -/
inductive Format where
  | hostRequest
  | commandPacket
  | responsePacket
deriving DecidableEq, Repr

/-- The rows of the opcode table. A packet's checksum byte `k` is an operand, as it is a field of the table's row: the
row's mask does not fix it (section 7, log 9). -/
inductive Instr where
  /-- READ_CO2, host request `op = 00` (R103). -/
  | readCo2
  /-- SET_ABC en, host request `op = 01` (R108). -/
  | setAbc (en : Bool)
  /-- SEND_CMD code, p0..p4, host request `op = 10` (R81). -/
  | sendCmd (code : Byte) (payload : Payload)
  /-- RECV_RESP, host request `op = 11` (R89). -/
  | recvResp
  /-- CMD_READ_CO2, the command packet READ_CO2 emits; every bit is fixed (R104). -/
  | cmdReadCo2
  /-- CMD_SET_ABC, the command packet SET_ABC emits: field `a` is A0 or 00, by `en`; `k` is offset 8 (R108). -/
  | cmdSetAbc (en : Bool) (k : Byte)
  /-- CMD_FRAME, any other command packet: code, payload and offset 8 (R79). -/
  | cmdFrame (code : Byte) (payload : Payload) (k : Byte)
  /-- RSP_READ_CO2, a response with echo 86: q0, q1, q2..q5 and offset 8 (R106). -/
  | rspReadCo2 (h l : Byte) (q : Vector Byte 4) (k : Byte)
  /-- RSP_FRAME, any other response: echo, q0..q5 and offset 8 (R96). -/
  | rspFrame (echo : Byte) (q : Vector Byte 6) (k : Byte)
deriving DecidableEq, Repr

/-- The format of an instruction's row. -/
def Instr.format : Instr → Format
  | .readCo2 => .hostRequest
  | .setAbc _ => .hostRequest
  | .sendCmd _ _ => .hostRequest
  | .recvResp => .hostRequest
  | .cmdReadCo2 => .commandPacket
  | .cmdSetAbc _ _ => .commandPacket
  | .cmdFrame _ _ _ => .commandPacket
  | .rspReadCo2 _ _ _ _ => .responsePacket
  | .rspFrame _ _ _ => .responsePacket

/-- The pseudo-operation ABC_ON, which stands for SET_ABC 1 (R66). -/
abbrev Instr.abcOn : Instr := .setAbc true

/-- The pseudo-operation ABC_OFF, which stands for SET_ABC 0 (R66). -/
abbrev Instr.abcOff : Instr := .setAbc false

/-- What the host puts on the request port (R29, R55): the 2-bit operation field and the operand fields. -/
structure Request where
  op : BitVec 2
  en : Bool
  code : Byte
  payload : Payload
deriving DecidableEq, Repr

/-- An instruction as its format holds it: the request port's fields, or the nine bytes of a packet. -/
inductive Encoding where
  | request (r : Request)
  | command (p : Packet)
  | response (p : Packet)
deriving DecidableEq, Repr

end Sys2Proof
end

