-- ==== Sys2Proof/Machine/Checksum.lean ====
section
/-! DEFINITION. The Checksum-8 unit: the function CK8 (spec/40_checksum.md R69 to R72) and the arithmetic of its
accumulator's micro-operations (R73 to R76). -/
namespace Sys2Proof.Machine

/-- The integer sum of a packet's bytes at offsets 1..7 (R69, R71; C2, C3). -/
def spanTotal (p : Packet) : Nat :=
  p[1].toNat + p[2].toNat + p[3].toNat + p[4].toNat + p[5].toNat + p[6].toNat + p[7].toNat

/-- `CK8(buf)`, the normative function (R69): the negated 8-bit sum of offsets 1..7. -/
def ck8 (p : Packet) : Byte :=
  BitVec.ofNat 8 ((0x100 - spanTotal p % 256) % 256)

/-- The accumulator after `CK8_CLR` (R73). -/
def ck8Clr : Byte := 0x00

/-- The accumulator after `CK8_ADD b` (R74): the carry out of bit 7 is dropped. -/
def ck8Add (acc b : Byte) : Byte :=
  BitVec.ofNat 8 ((acc.toNat + b.toNat) % 256)

/-- What `CK8_OUT` reads (R75). -/
def ck8Out (acc : Byte) : Byte :=
  BitVec.ofNat 8 ((0x100 - acc.toNat) % 256)

/-- The bytes CK8 covers, in the order R76 adds them (R71). -/
def spanBytes (p : Packet) : List Byte :=
  [p[1], p[2], p[3], p[4], p[5], p[6], p[7]]

/-- What `acc` holds once the span of `p` has been added (R76): the 8-bit sum of offsets 1..7. -/
def spanSum (p : Packet) : Byte :=
  BitVec.ofNat 8 (spanTotal p % 256)

end Sys2Proof.Machine
end

