-- ==== Sys2Proof/Machine/Params.lean ====
section
/-! DEFINITION. The protocol's constants (spec/00_scope.md R8; UNVERIFIED against the repository's code, N12, log 21). -/
namespace Sys2Proof.Machine

/-- The start marker of every packet (R8 `SENTINEL`, R48, C4). -/
abbrev sentinel : Byte := 0xFF

/-- Offset 1 of every command packet (R8 `RESERVED`, R49). -/
abbrev reservedByte : Byte := 0x01

/-- The command code "read concentration" (R8 `CODE_READ_CO2`, R61). -/
abbrev codeReadCo2 : Byte := 0x86

/-- The command code "zero-point self-calibration" (R8 `CODE_SET_ABC`, R61). -/
abbrev codeSetAbc : Byte := 0x79

/-- Payload p0 of SET_ABC 1 (R8 `ABC_ENABLE`, R57). -/
abbrev abcEnable : Byte := 0xA0

/-- Payload p0 of SET_ABC 0 (R8 `ABC_DISABLE`, R57). -/
abbrev abcDisable : Byte := 0x00

end Sys2Proof.Machine
end

