-- ==== Sys2Proof/Machine/Operands.lean ====
section
/-! DEFINITION. Operand assembly: the packets' layouts, the payloads of the public commands, framing, and the one decoded
response operand (spec/30_encoding.md R47 to R60, 41_framer_tx.md R79, 20_memory.md R38). -/
namespace Sys2Proof.Machine

/-- The layout of a command packet (R47): start marker, reserved byte, code, p0..p4, checksum byte. -/
def commandPacket (code : Byte) (p : Payload) (k : Byte) : Packet :=
  #v[sentinel, reservedByte, code, p[0], p[1], p[2], p[3], p[4], k]

/-- The layout of a response packet (R53): start marker, echo, q0..q5, checksum byte. -/
def responsePacket (echo : Byte) (q : Vector Byte 6) (k : Byte) : Packet :=
  #v[sentinel, echo, q[0], q[1], q[2], q[3], q[4], q[5], k]

/-- `FRAME(code, p)` (R79): the command packet with `CK8` of itself at offset 8. -/
def frame (code : Byte) (p : Payload) : Packet :=
  commandPacket code p (ck8 (commandPacket code p 0))

/-- READ_CO2's payload (R58). -/
def payloadReadCo2 : Payload := #v[0, 0, 0, 0, 0]

/-- SET_ABC's payload p0 (R57). -/
def abcByte (en : Bool) : Byte :=
  if en then abcEnable else abcDisable

/-- SET_ABC's payload (R57): p0 from `en`, p1..p4 zero. -/
def payloadSetAbc (en : Bool) : Payload := #v[abcByte en, 0, 0, 0, 0]

/-- The concentration of a response (R38, R60, R106): offsets 2 and 3, big-endian, not clamped (D17). -/
def decodePpm (rx : Packet) : Ppm :=
  BitVec.zeroExtend 16 rx[2] * 256#16 + BitVec.zeroExtend 16 rx[3]

end Sys2Proof.Machine
end

