-- ==== Sys2Proof/WellFormed.lean ====
section
/-! DEFINITION. Which instructions are well formed: which words the block emits or accepts under each row
(spec/30_encoding.md R56, R61, R62 and section 7). -/
namespace Sys2Proof
open Sys2Proof.Machine

/-- The code and payload belong to a row of higher priority than CMD_FRAME: READ_CO2's own or SET_ABC's own (section 7). -/
def isPublicCommand (code : Byte) (p : Payload) : Bool :=
  (code == codeReadCo2 && p == payloadReadCo2) ||
  (code == codeSetAbc && (p == payloadSetAbc true || p == payloadSetAbc false))

/-- Every host request is legal (R55, R56). A packet's checksum byte is `CK8` of the packet (R52, R62). A packet of a
general row is none of a row with priority over it (section 7). -/
def Instr.wf : Instr → Bool
  | .readCo2 => true
  | .setAbc _ => true
  | .sendCmd _ _ => true
  | .recvResp => true
  | .cmdReadCo2 => true
  | .cmdSetAbc en k => k == ck8 (commandPacket codeSetAbc (payloadSetAbc en) k)
  | .cmdFrame code p k => k == ck8 (commandPacket code p k) && !isPublicCommand code p
  | .rspReadCo2 h l q k => k == ck8 (responsePacket codeReadCo2 #v[h, l, q[0], q[1], q[2], q[3]] k)
  | .rspFrame echo q k => k == ck8 (responsePacket echo q k) && echo != codeReadCo2

end Sys2Proof
end

