-- ==== Sys2Proof/Decode.lean ====
section
/-! DEFINITION. The decoder, total, rejecting by name; the encoder; the words of both; the written syntax
(spec/30_encoding.md). -/
namespace Sys2Proof
open Sys2Proof.Machine

/-- Why nine bytes, or a number of bytes, are no packet of a format. -/
inductive Reject where
  /-- Offset 0 is not the start marker (R48, R53). -/
  | badStartMarker (b : Byte)
  /-- Offset 1 of a command packet is not the reserved byte (R49). -/
  | badReservedByte (b : Byte)
  /-- A packet has nine bytes (R64). -/
  | wrongLength (n : Nat)
deriving DecidableEq, Repr

/-- The operation a host request names; the fields it does not read are ignored (R55, R56). No request is illegal. -/
def decodeRequest (r : Request) : Instr :=
  if r.op = 0 then .readCo2
  else if r.op = 1 then .setAbc r.en
  else if r.op = 2 then .sendCmd r.code r.payload
  else .recvResp

/-- The row of the command packet `p`, by match, mask and priority (R47, section 7). -/
def decodeCommand (p : Packet) : Except Reject Instr :=
  if p[0] ≠ sentinel then .error (.badStartMarker p[0])
  else if p[1] ≠ reservedByte then .error (.badReservedByte p[1])
  else if p = #v[0xFF, 0x01, 0x86, 0, 0, 0, 0, 0, 0x79] then .ok .cmdReadCo2
  else if p[2] = codeSetAbc ∧ p[3] = abcEnable ∧ p[4] = 0 ∧ p[5] = 0 ∧ p[6] = 0 ∧ p[7] = 0 then .ok (.cmdSetAbc true p[8])
  else if p[2] = codeSetAbc ∧ p[3] = abcDisable ∧ p[4] = 0 ∧ p[5] = 0 ∧ p[6] = 0 ∧ p[7] = 0 then .ok (.cmdSetAbc false p[8])
  else .ok (.cmdFrame p[2] #v[p[3], p[4], p[5], p[6], p[7]] p[8])

/-- The row of the response packet `p`, by match, mask and priority (R53, section 7). -/
def decodeResponse (p : Packet) : Except Reject Instr :=
  if p[0] ≠ sentinel then .error (.badStartMarker p[0])
  else if p[1] = codeReadCo2 then .ok (.rspReadCo2 p[2] p[3] #v[p[4], p[5], p[6], p[7]] p[8])
  else .ok (.rspFrame p[1] #v[p[2], p[3], p[4], p[5], p[6], p[7]] p[8])

/-- The decoder: every encoding gives an instruction or a named rejection. -/
def decode : Encoding → Except Reject Instr
  | .request r => .ok (decodeRequest r)
  | .command p => decodeCommand p
  | .response p => decodeResponse p

/-- A packet from bytes in offset order: exactly nine (R64). -/
def packetOfBytes (bs : List Byte) : Except Reject Packet :=
  match bs with
  | [b0, b1, b2, b3, b4, b5, b6, b7, b8] => .ok #v[b0, b1, b2, b3, b4, b5, b6, b7, b8]
  | other => .error (.wrongLength other.length)

/-- The decoder of bytes sent to the byte-sink, any number of them. -/
def decodeCommandBytes (bs : List Byte) : Except Reject Instr := do
  decodeCommand (← packetOfBytes bs)

/-- The decoder of bytes taken from the byte-source, any number of them. -/
def decodeResponseBytes (bs : List Byte) : Except Reject Instr := do
  decodeResponse (← packetOfBytes bs)

/-- The encoder (R47, R53, R55): a request's unread fields are zero. -/
def encode : Instr → Encoding
  | .readCo2 => .request ⟨0, false, 0, #v[0, 0, 0, 0, 0]⟩
  | .setAbc en => .request ⟨1, en, 0, #v[0, 0, 0, 0, 0]⟩
  | .sendCmd code p => .request ⟨2, false, code, p⟩
  | .recvResp => .request ⟨3, false, 0, #v[0, 0, 0, 0, 0]⟩
  | .cmdReadCo2 => .command (commandPacket codeReadCo2 payloadReadCo2 0x79)
  | .cmdSetAbc en k => .command (commandPacket codeSetAbc (payloadSetAbc en) k)
  | .cmdFrame code p k => .command (commandPacket code p k)
  | .rspReadCo2 h l q k => .response (responsePacket codeReadCo2 #v[h, l, q[0], q[1], q[2], q[3]] k)
  | .rspFrame echo q k => .response (responsePacket echo q k)

/-- A packet read as a big-endian 72-bit number: offset 0 in bits 71:64 (R47). -/
def packetToNat (p : Packet) : Nat :=
  (((((((p[0].toNat * 256 + p[1].toNat) * 256 + p[2].toNat) * 256 + p[3].toNat) * 256 + p[4].toNat) * 256 + p[5].toNat) * 256
    + p[6].toNat) * 256 + p[7].toNat) * 256 + p[8].toNat

/-- The packet of a 72-bit number: offset 0 from bits 71:64 (R47). -/
def packetOfNat (w : Nat) : Packet :=
  #v[BitVec.ofNat 8 (w / 256 ^ 8), BitVec.ofNat 8 (w / 256 ^ 7), BitVec.ofNat 8 (w / 256 ^ 6), BitVec.ofNat 8 (w / 256 ^ 5),
     BitVec.ofNat 8 (w / 256 ^ 4), BitVec.ofNat 8 (w / 256 ^ 3), BitVec.ofNat 8 (w / 256 ^ 2), BitVec.ofNat 8 (w / 256),
     BitVec.ofNat 8 w]

/-- The request port as one number: `op` in bits 1:0 (R55), then, DESIGN CHOICE (log 11), `en` in bit 2, `code` in bits
10:3, and `payload[k]` in the eight bits from 11 + 8k. -/
def requestToNat (r : Request) : Nat :=
  r.op.toNat + 2 ^ 2 * r.en.toNat + 2 ^ 3 * r.code.toNat + 2 ^ 11 * r.payload[0].toNat + 2 ^ 19 * r.payload[1].toNat
    + 2 ^ 27 * r.payload[2].toNat + 2 ^ 35 * r.payload[3].toNat + 2 ^ 43 * r.payload[4].toNat

/-- The request port's fields, from the number of `requestToNat` (log 11). -/
def requestOfNat (w : Nat) : Request :=
  { op := BitVec.ofNat 2 w
    en := w / 2 ^ 2 % 2 == 1
    code := BitVec.ofNat 8 (w / 2 ^ 3)
    payload := #v[BitVec.ofNat 8 (w / 2 ^ 11), BitVec.ofNat 8 (w / 2 ^ 19), BitVec.ofNat 8 (w / 2 ^ 27),
                  BitVec.ofNat 8 (w / 2 ^ 35), BitVec.ofNat 8 (w / 2 ^ 43)] }

/-- Bits in a word of the format: the request port's 51 (log 11), a packet's 72 (R47). -/
def Format.width : Format → Nat
  | .hostRequest => 51
  | .commandPacket => 72
  | .responsePacket => 72

/-- The word of an instruction, numbered as its format numbers bits. -/
def encodeWord (i : Instr) : Nat :=
  match encode i with
  | .request r => requestToNat r
  | .command p => packetToNat p
  | .response p => packetToNat p

/-- The instruction of a word of the given format. -/
def decodeWord (f : Format) (w : Nat) : Except Reject Instr :=
  match f with
  | .hostRequest => decode (.request (requestOfNat w))
  | .commandPacket => decode (.command (packetOfNat w))
  | .responsePacket => decode (.response (packetOfNat w))

/-- A word of the opcode table, with the format it is read in. A host request has up to 51 bits (56 in whole bytes), a packet
72. A 72-bit word that both packet formats match is read as a command packet (log 10). -/
def tableWord (nbits w : Nat) : Option Encoding :=
  let v := w % 2 ^ nbits
  if nbits < 2 then none
  else if nbits ≤ 56 then some (.request (requestOfNat v))
  else if nbits ≤ 72 then
    match decodeCommand (packetOfNat v), decodeResponse (packetOfNat v) with
    | .ok _, _ => some (.command (packetOfNat v))
    | .error _, .ok _ => some (.response (packetOfNat v))
    | .error _, .error _ => none
  else none

/-- The instruction the decoder reads from a word of the opcode table (log 10). -/
def decodeTableWord (nbits w : Nat) : Option Instr :=
  match tableWord nbits w with
  | some e => (decode e).toOption
  | none => none

/-- A byte as two hex digits (R67). -/
def hexByte (b : Byte) : String :=
  let digit (n : Nat) : String := String.ofList [("0123456789ABCDEF".toList)[n]?.getD '0']
  digit (b.toNat / 16) ++ digit (b.toNat % 16)

/-- A packet as the spec writes it: nine bytes in offset order, two hex digits each, spaces between (R67). -/
def packetText (p : Packet) : String :=
  " ".intercalate (p.toList.map hexByte)

/-- A host request as the spec writes it (R65), a packet as R67 writes it. -/
def Instr.text : Instr → String
  | .readCo2 => "READ_CO2"
  | .setAbc en => "SET_ABC " ++ (if en then "1" else "0")
  | .sendCmd code p => "SEND_CMD " ++ ", ".intercalate ((code :: p.toList).map (fun b => "0x" ++ hexByte b))
  | .recvResp => "RECV_RESP"
  | .cmdReadCo2 => packetText (commandPacket codeReadCo2 payloadReadCo2 0x79)
  | .cmdSetAbc en k => packetText (commandPacket codeSetAbc (payloadSetAbc en) k)
  | .cmdFrame code p k => packetText (commandPacket code p k)
  | .rspReadCo2 h l q k => packetText (responsePacket codeReadCo2 #v[h, l, q[0], q[1], q[2], q[3]] k)
  | .rspFrame echo q k => packetText (responsePacket echo q k)

end Sys2Proof
end

