-- ==== Sys2Proof/Machine/State.lean ====
section
/-! DEFINITION. The machine's state, its inputs, its faults and refusals, and the state after reset
(spec/10_state.md, 20_memory.md R35, R36, R43, 70_reset_and_hazards.md R135 to R139). -/
namespace Sys2Proof.Machine

/-- The sequencer state (R15). -/
inductive Phase where
  | idle
  | sending
  | receiving
  | validating
deriving DecidableEq, Repr

/-- The latched operation (R16). -/
inductive Op where
  | readCo2
  | setAbc
  | sendCmd
  | recvResp
deriving DecidableEq, Repr

/-- The outcome of an operation (R115). -/
inductive Kind where
  | none
  | writeFailure
  | invalidStartByte
  | badChecksum
  | readFailure
  | invalidResponseCommand
deriving DecidableEq, Repr

/-- The byte-sink's answer to a call (R35). -/
inductive SinkAnswer where
  | ok
  | fail
deriving DecidableEq, Repr

/-- The byte-source's answer to a call (R36). -/
inductive SourceAnswer where
  | ok (b : Byte)
  | fail
deriving DecidableEq, Repr

/-- A transport: the answers it will give to the calls to come, in order. Where a list is empty the call is not answered
(R9, R35, R36, R132; log 1). -/
structure Transport where
  sink : List SinkAnswer
  source : List SourceAnswer
deriving DecidableEq, Repr

/-- An event of an operation's history (R43). -/
inductive Event where
  | sink (b : Byte) (a : SinkAnswer)
  | source (a : SourceAnswer)
  | complete (k : Kind)
deriving DecidableEq, Repr

/-- What a read of the result port gives the host (R26). -/
inductive PortValue where
  | busy (v : Bool)
  | resultValid (v : Bool)
  | status (v : StatusCode)
  | ppm (v : Ppm)
  | resp (v : Packet)
deriving DecidableEq, Repr

/-- What the host does to the block between, or instead of, the block's own steps (R26, R29, R135, R139; log 3). -/
inductive HostAction where
  | request (r : Request)
  | bind (t : Transport)
  | reset
  | readBusy
  | readResultValid
  | readStatus
  | readPpm
  | readResp
deriving DecidableEq, Repr

/-- Why the machine stops with a fault. -/
inductive Fault where
  /-- A host read of `status`, `ppm` or `resp` where R26 does not define it. Raised by the result port's reads (R31, R144,
  U5 to U7). Safe: the spec says a model faults. -/
  | resultNotValid
  /-- A host read of `status` that finds code 6 or 7. Raised by the read of `status` (R133, U9). Safe: no run reaches it. -/
  | unusedStatusCode
deriving DecidableEq, Repr

/-- Why the machine has no meaning for an instruction or a host action. -/
inductive Refusal where
  /-- Raised by exec for an instruction that has no meaning yet. Safe. None is left. -/
  | notModelled (mnemonic : String)
  /-- A host request while `busy = 1`. Raised by the four host requests (R140, U14: the host has no such step). Unsafe for a
  host that makes one: its runs are not modelled (D5, log 12). -/
  | requestWhileBusy
  /-- A host request, or a transport call, with no transport bound. Raised by the four host requests and the transport
  steps (R139, U11). Safe (D10). -/
  | noTransportBound
  /-- A packet's step where its rule does not enable it: no packet is being sent, or none has been received whole. Raised by
  the packets' steps (R87, R90, R96: "the only step enabled"). Safe: no run reaches it (log 18). -/
  | stepNotEnabled
  /-- The host binds a transport while an operation runs. Raised by the host's bind (R139 is silent). Safe (log 5). -/
  | bindWhileBusy
deriving DecidableEq, Repr

/-- Everything the spec gives one block (R32; one instance is modelled, log 17), then its surroundings, then the model's own
counter. -/
structure State where
  /-- R15. -/
  phase : Phase
  /-- R16. -/
  op : Op
  /-- `req_en` (R16). -/
  reqEn : Bool
  /-- `req_code` (R16). -/
  reqCode : Byte
  /-- `req_payload[0..4]` (R16). -/
  reqPayload : Payload
  /-- The transmit buffer (R17). -/
  tx : Packet
  /-- `tx_idx`, 0..9 (R17). -/
  txIdx : Nat
  /-- The receive buffer (R18). What it holds at or beyond `rxIdx` is not defined; the model keeps earlier bytes (log 22). -/
  rx : Packet
  /-- `rx_idx`, 0..9 (R18). -/
  rxIdx : Nat
  /-- The Checksum-8 accumulator (R19). -/
  acc : Byte
  /-- R20. -/
  status : StatusCode
  /-- R21. -/
  resultValid : Bool
  /-- R22. -/
  ppm : Ppm
  /-- R23. -/
  resp : Packet
  /-- The bound transport (R9, R139). -/
  transport : Option Transport
  /-- The event history of the current or last operation (R42, R43). -/
  history : List Event
  /-- What the host does at the coming steps; `none` is nothing (R29, log 3). -/
  host : List (Option HostAction)
  /-- What the host's last read of the result port gave (R26, log 16). -/
  lastRead : Option PortValue
  /-- The model's own: how many free values have been drawn (log 6). -/
  draws : Nat
deriving DecidableEq, Repr

/-- The machine right after reset (R28, R135). The spec gives `phase` and `resultValid`. Every other value is a DESIGN CHOICE
(log 4), and no transport is bound yet (R139, log 5). -/
def State.reset : State where
  phase := .idle
  op := .readCo2
  reqEn := false
  reqCode := 0
  reqPayload := #v[0, 0, 0, 0, 0]
  tx := #v[0, 0, 0, 0, 0, 0, 0, 0, 0]
  txIdx := 0
  rx := #v[0, 0, 0, 0, 0, 0, 0, 0, 0]
  rxIdx := 0
  acc := 0
  status := 0
  resultValid := false
  ppm := 0
  resp := #v[0, 0, 0, 0, 0, 0, 0, 0, 0]
  transport := none
  history := []
  host := []
  lastRead := none
  draws := 0

end Sys2Proof.Machine
end

