-- ==== Sys2Proof/Machine/Flags.lean ====
section
/-! DEFINITION. The block's only flags, `busy`, `result_valid` and `status`: the status codes, and what the host may read
when (spec/10_state.md R15, R20, R21, R26, R31; 60_exceptions.md R115, R133). -/
namespace Sys2Proof.Machine

/-- The status code of an outcome (R115). -/
def Kind.code : Kind → StatusCode
  | .none => 0
  | .writeFailure => 1
  | .invalidStartByte => 2
  | .badChecksum => 3
  | .readFailure => 4
  | .invalidResponseCommand => 5

/-- `busy` is `phase != IDLE` (R15). -/
def busy (s : State) : Bool :=
  match s.phase with
  | .idle => false
  | .sending => true
  | .receiving => true
  | .validating => true

/-- `status` is defined (R26). -/
def statusDefined (s : State) : Bool :=
  s.resultValid

/-- `ppm` is defined: the last operation was a READ_CO2 that completed with NONE (R26). -/
def ppmDefined (s : State) : Bool :=
  s.resultValid && s.op == .readCo2 && s.status == Kind.none.code

/-- `resp` is defined: the last operation was a RECV_RESP that completed with NONE (R26). -/
def respDefined (s : State) : Bool :=
  s.resultValid && s.op == .recvResp && s.status == Kind.none.code

/-- The host's read of `status` (R26, R31): codes 6 and 7 are outside the block's state space (R133). -/
def readStatus (s : State) : Except Fault PortValue :=
  if statusDefined s then
    if s.status.toNat < 6 then .ok (.status s.status) else .error .unusedStatusCode
  else .error .resultNotValid

/-- The host's read of `ppm` (R26, R31). -/
def readPpm (s : State) : Except Fault PortValue :=
  if ppmDefined s then .ok (.ppm s.ppm) else .error .resultNotValid

/-- The host's read of `resp[0..8]` (R26, R31). -/
def readResp (s : State) : Except Fault PortValue :=
  if respDefined s then .ok (.resp s.resp) else .error .resultNotValid

end Sys2Proof.Machine
end

