-- ==== Sys2Proof/Machine/Ops.lean ====
section
/-! DEFINITION. The named operations over the state that the meanings share: the accumulator, framing, completion (the one
operation that ends an operation with an outcome, R117), acceptance, and the transmission, reception and validation steps
(spec/40_checksum.md, 41_framer_tx.md, 42_receiver.md, 60_exceptions.md). -/
namespace Sys2Proof.Machine

/-- One step's answer. -/
abbrev Result := Host.Outcome State Fault Refusal

/-! ## The accumulator -/

/-- `CK8_CLR` (R73). -/
def opCk8Clr (s : State) : State :=
  { s with acc := ck8Clr }

/-- `CK8_ADD b` (R74). -/
def opCk8Add (b : Byte) (s : State) : State :=
  { s with acc := ck8Add s.acc b }

/-- `CK8_OUT` (R75). -/
def opCk8Out (s : State) : Byte :=
  ck8Out s.acc

/-- `CK8_CLR`, then `CK8_ADD` of offsets 1..7 of `p` in order (R76; log 13). -/
def runCk8 (p : Packet) (s : State) : State :=
  (spanBytes p).foldl (fun s b => opCk8Add b s) (opCk8Clr s)

/-! ## Events and completion -/

/-- `record e` (R43): the event goes at the end of the operation's history. -/
def record (e : Event) (s : State) : State :=
  { s with history := s.history ++ [e] }

/-- `finish(kind)` (R117): the completion step, the only one that writes `status`. -/
def finish (k : Kind) (s : State) : State :=
  record (.complete k) { s with status := k.code, resultValid := true, phase := .idle }

/-- `ppm` becomes undefined (R22): a free value (log 6). -/
def undefinePpm (s : State) : State :=
  { s with ppm := Config.freePpm s.draws, draws := s.draws + 1 }

/-- `resp` becomes undefined (R23): a free value (log 6). -/
def undefineResp (s : State) : State :=
  { s with resp := Config.freeResp s.draws, draws := s.draws + 1 }

/-- Completion with an outcome that defines neither `ppm` nor `resp` (R22, R23, R114, R120). After an error R120 also leaves
undefined which byte failed and the bytes received so far; the model keeps `tx`, `tx_idx`, `rx` and `rx_idx` as they stand
(log 24). -/
def finishNoValue (k : Kind) (s : State) : State :=
  finish k (undefineResp (undefinePpm s))

/-- READ_CO2's completion with NONE (R96, R106): `ppm` is the decode of `pkt`, `resp` is undefined (R103). -/
def finishPpm (pkt : Packet) (s : State) : State :=
  finish .none (undefineResp { s with ppm := decodePpm pkt })

/-- RECV_RESP's completion with NONE (R96, R99): `resp` is `pkt`, `ppm` is undefined (R89). -/
def finishResp (pkt : Packet) (s : State) : State :=
  finish .none (undefinePpm { s with resp := pkt })

/-! ## Acceptance -/

/-- A request is accepted only when the block is idle (R30, R140) and a transport is bound (R139); `act` is what acceptance
does. The history starts anew (R43, log 15); `status`, `ppm` and `resp` keep what they held, unreadable (log 20). -/
def acceptWhenIdle (act : State → State) (s : State) : Result :=
  if busy s then .refused .requestWhileBusy
  else match s.transport with
    | none => .refused .noTransportBound
    | some _ => .next { act s with resultValid := false, history := [] }

/-- `tx <- FRAME(code, p); tx_idx <- 0; phase <- SENDING` (R79 to R81): the checksum byte is read out of the accumulator. -/
def frameTx (code : Byte) (p : Payload) (s : State) : State :=
  let s1 := runCk8 (commandPacket code p 0) s
  { s1 with tx := commandPacket code p (opCk8Out s1), txIdx := 0, phase := .sending }

/-! ## Transmission -/

/-- After the 9th OK (R86): READ_CO2 goes on to reception, any other operation completes with NONE. `rx` then holds no defined
value (R18); the model leaves the earlier bytes in it (log 22). -/
def afterLastSink (s : State) : State :=
  if s.op = .readCo2 then { s with rxIdx := 0, phase := .receiving } else finishNoValue .none s

/-- What an answered sink call with byte `b` does (R83, R87). -/
def onSinkAnswer (b : Byte) (a : SinkAnswer) (s : State) : State :=
  let s1 := record (.sink b a) s
  match a with
  | .fail => finishNoValue .writeFailure s1
  | .ok =>
    let s2 := { s1 with txIdx := s1.txIdx + 1 }
    if s2.txIdx = 9 then afterLastSink s2 else s2

/-- The transmission step of the packet `pkt` (R82, R87): one sink call with the byte at `tx_idx`. A call that is not
answered leaves the block as it is, waiting (R132, log 2). -/
def transmit (pkt : Packet) (s : State) : Result :=
  if h : s.phase = .sending ∧ s.txIdx < 9 then
    match s.transport with
    | none => .refused .noTransportBound
    | some t =>
      match t.sink with
      | [] => .next s
      | a :: rest => .next (onSinkAnswer (pkt[s.txIdx]'h.2) a { s with transport := some { t with sink := rest } })
  else .refused .stepNotEnabled

/-! ## Reception -/

/-- What an answered source call does (R90 to R95, R98, R101). The bytes of `rx` beyond the one stored hold no defined value
(R18); the model leaves the earlier ones there (log 22). -/
def onSourceAnswer (a : SourceAnswer) (s : State) (h : s.rxIdx < 9) : State :=
  match a with
  | .fail => finishNoValue .readFailure (record (.source .fail) s)
  | .ok b =>
    let s1 := record (.source (.ok b)) { s with rx := s.rx.set s.rxIdx b h }
    if s.rxIdx = 0 ∧ b ≠ sentinel then finishNoValue .invalidStartByte s1
    else if s.rxIdx + 1 = 9 then { s1 with rxIdx := s.rxIdx + 1, phase := .validating }
    else { s1 with rxIdx := s.rxIdx + 1 }

/-- The reception step (R90): one source call. A call that is not answered leaves the block as it is, waiting (R132, log 2). -/
def receive (s : State) : Result :=
  if h : s.phase = .receiving ∧ s.rxIdx < 9 then
    match s.transport with
    | none => .refused .noTransportBound
    | some t =>
      match t.source with
      | [] => .next s
      | a :: rest => .next (onSourceAnswer a { s with transport := some { t with source := rest } } h.2)
  else .refused .stepNotEnabled

/-! ## Validation -/

/-- The judgement of the whole response `pkt` (R96, R99, R105, R106), given the checksum `ck` computed over it. -/
def judge (pkt : Packet) (ck : Byte) (s : State) : State :=
  if pkt[8] ≠ ck then finishNoValue .badChecksum s
  else if s.op = .readCo2 then
    if pkt[1] ≠ codeReadCo2 then finishNoValue .invalidResponseCommand s else finishPpm pkt s
  else finishResp pkt s

/-- The validation step on the response `pkt` (R96): no transport call, always to IDLE. -/
def validate (pkt : Packet) (s : State) : Result :=
  if s.phase = .validating then
    let s1 := runCk8 pkt s
    .next (judge pkt (opCk8Out s1) s1)
  else .refused .stepNotEnabled

end Sys2Proof.Machine
end

