-- ==== Sys2Proof/Machine/CommandPackets.lean ====
section
/-! DEFINITION. The meanings of the command packets: while the block is sending one, a step of it is one sink call
(spec/41_framer_tx.md R82 to R88; log 8). -/
namespace Sys2Proof.Machine

/-- CMD_READ_CO2 (R104, R87). -/
def execCmdReadCo2 (s : State) : Result :=
  transmit (commandPacket codeReadCo2 payloadReadCo2 0x79) s

/-- CMD_SET_ABC (R108, R109, R87). -/
def execCmdSetAbc (en : Bool) (k : Byte) (s : State) : Result :=
  transmit (commandPacket codeSetAbc (payloadSetAbc en) k) s

/-- CMD_FRAME (R79, R87). -/
def execCmdFrame (code : Byte) (p : Payload) (k : Byte) (s : State) : Result :=
  transmit (commandPacket code p k) s

end Sys2Proof.Machine
end

