-- ==== Sys2Proof/Machine/Requests.lean ====
section
/-! DEFINITION. The meanings of the four host requests: their acceptance steps (spec/43_commands.md R103, R108,
41_framer_tx.md R81, 42_receiver.md R89). What follows acceptance is the packets' steps and the reception step. Latches
that a request's own rule does not name are not written (log 14). -/
namespace Sys2Proof.Machine

/-- READ_CO2 (R103, R58). -/
def execReadCo2 (s : State) : Result :=
  acceptWhenIdle (fun s => frameTx codeReadCo2 payloadReadCo2 { s with op := .readCo2 }) s

/-- SET_ABC en (R108, R57). -/
def execSetAbc (en : Bool) (s : State) : Result :=
  acceptWhenIdle (fun s => frameTx codeSetAbc (payloadSetAbc en) { s with op := .setAbc, reqEn := en }) s

/-- SEND_CMD code, p0..p4 (R81, R59). -/
def execSendCmd (code : Byte) (p : Payload) (s : State) : Result :=
  acceptWhenIdle (fun s => frameTx code p { s with op := .sendCmd, reqCode := code, reqPayload := p }) s

/-- RECV_RESP (R89). `rx` then holds no defined value (R18); the model leaves the earlier bytes in it (log 22). -/
def execRecvResp (s : State) : Result :=
  acceptWhenIdle (fun s => { s with op := .recvResp, rxIdx := 0, phase := .receiving }) s

end Sys2Proof.Machine
end

