-- ==== Sys2Proof/Machine/ResponsePackets.lean ====
section
/-! DEFINITION. The meanings of the response packets: once the block has received one whole, its step is the validation step
(spec/42_receiver.md R96, 43_commands.md R105, R106; log 8). -/
namespace Sys2Proof.Machine

/-- RSP_READ_CO2 (R106, R96, R99). -/
def execRspReadCo2 (h l : Byte) (q : Vector Byte 4) (k : Byte) (s : State) : Result :=
  validate (responsePacket codeReadCo2 #v[h, l, q[0], q[1], q[2], q[3]] k) s

/-- RSP_FRAME (R96, R99, R105). -/
def execRspFrame (echo : Byte) (q : Vector Byte 6) (k : Byte) (s : State) : Result :=
  validate (responsePacket echo q k) s

end Sys2Proof.Machine
end

