-- ==== Sys2Proof/Machine/Dispatch.lean ====
section
/-! DEFINITION. One arm per row of spec/opcode_table.json. -/
namespace Sys2Proof.Machine

def exec (i : Instr) (s : State) : Host.Outcome State Fault Refusal :=
  match i with
  | .readCo2 => Sys2Proof.Machine.execReadCo2 s
  | .setAbc en => Sys2Proof.Machine.execSetAbc en s
  | .sendCmd code p => Sys2Proof.Machine.execSendCmd code p s
  | .recvResp => Sys2Proof.Machine.execRecvResp s
  | .cmdReadCo2 => Sys2Proof.Machine.execCmdReadCo2 s
  | .cmdSetAbc en k => Sys2Proof.Machine.execCmdSetAbc en k s
  | .cmdFrame code p k => Sys2Proof.Machine.execCmdFrame code p k s
  | .rspReadCo2 h l q k => Sys2Proof.Machine.execRspReadCo2 h l q k s
  | .rspFrame echo q k => Sys2Proof.Machine.execRspFrame echo q k s

end Sys2Proof.Machine
end

