-- ==== Sys2Proof/Machine/HostPort.lean ====
section
/-! DEFINITION. What the host does to the block besides requesting: reset, binding a transport, and reading the result port
(spec/70_reset_and_hazards.md R135, R136, R139; 10_state.md R26, R31). -/
namespace Sys2Proof.Machine

/-- The transport after a reset in SENDING or RECEIVING: the call in progress is abandoned, and whether its byte moved is
free (R136, U4, log 7). In the other phases no call is in progress. -/
def abandonCall (s : State) : State :=
  let moved := Config.freeMoved s.draws
  match s.phase with
  | .idle => s
  | .sending =>
    { s with transport := s.transport.map (fun t => if moved then { t with sink := t.sink.tail } else t), draws := s.draws + 1 }
  | .receiving =>
    { s with transport := s.transport.map (fun t => if moved then { t with source := t.source.tail } else t), draws := s.draws + 1 }
  | .validating => s

/-- Reset (R135, R136): `phase` and `result_valid` as R135 says, `status` not written (R136), and the block's other state as
State.reset has it (log 4). No call is made, nothing is recorded, and the block's surroundings stay (log 5, log 15). -/
def hostReset (s : State) : State :=
  let s1 := abandonCall s
  { State.reset with status := s1.status, transport := s1.transport, history := s1.history, host := s1.host,
                     lastRead := s1.lastRead, draws := s1.draws }

/-- The host binds a transport before a request (R139), while no operation runs (log 5). -/
def hostBind (t : Transport) (s : State) : Result :=
  if busy s then .refused .bindWhileBusy else .next { s with transport := some t }

/-- A read of the result port: the value goes to the host, or the machine faults (R31). -/
def hostRead (r : Except Fault PortValue) (s : State) : Result :=
  match r with
  | .ok v => .next { s with lastRead := some v }
  | .error f => .fault f

end Sys2Proof.Machine
end

