-- ==== Sys2Proof/Machine/Fetch.lean ====
section
/-! DEFINITION. Which step comes next: the host's request, another action of the host's, or the block's own step, by its
phase (spec/00_scope.md R6, 10_state.md R14, R15; log 3, log 8). -/
namespace Sys2Proof.Machine

/-- What the next step runs, and the state it runs in. -/
inductive Fetched where
  /-- An instruction: a request at the port, the packet being sent, or the response received. -/
  | instr (i : Instr) (s : State)
  /-- A host action other than a request. -/
  | action (a : HostAction) (s : State)
  /-- A step of the block that runs no instruction: waiting for a request, or reception. -/
  | internal (s : State)

/-- What the block itself runs next: in SENDING the command in `tx`, in VALIDATING the response in `rx`. -/
def fetchBlock (s : State) : Fetched :=
  match s.phase with
  | .idle => .internal s
  | .sending =>
    match decode (.command s.tx) with
    | .ok i => .instr i s
    | .error _ => .internal s
  | .receiving => .internal s
  | .validating =>
    match decode (.response s.rx) with
    | .ok i => .instr i s
    | .error _ => .internal s

/-- What the next step runs: the host's next action if it has one, else the block's own step. -/
def fetch (s : State) : Fetched :=
  match s.host with
  | [] => fetchBlock s
  | none :: rest => fetchBlock { s with host := rest }
  | some (.request r) :: rest => .instr (decodeRequest r) { s with host := rest }
  | some (.bind t) :: rest => .action (.bind t) { s with host := rest }
  | some .reset :: rest => .action .reset { s with host := rest }
  | some .readBusy :: rest => .action .readBusy { s with host := rest }
  | some .readResultValid :: rest => .action .readResultValid { s with host := rest }
  | some .readStatus :: rest => .action .readStatus { s with host := rest }
  | some .readPpm :: rest => .action .readPpm { s with host := rest }
  | some .readResp :: rest => .action .readResp { s with host := rest }

/-- The block's step that runs no instruction. An idle block waits (log 2); R87 and R96 are followed on whatever bytes `tx`
and `rx` hold where those are no packet, which no run reaches (log 18). -/
def internalStep (s : State) : Result :=
  match s.phase with
  | .idle => .next s
  | .sending => transmit s.tx s
  | .receiving => receive s
  | .validating => validate s.rx s

/-- The step of a host action. A request is an instruction, and `fetch` never gives it here. -/
def actionStep (a : HostAction) (s : State) : Result :=
  match a with
  | .request _ => .refused .stepNotEnabled
  | .bind t => hostBind t s
  | .reset => .next (hostReset s)
  | .readBusy => hostRead (.ok (.busy (busy s))) s
  | .readResultValid => hostRead (.ok (.resultValid s.resultValid)) s
  | .readStatus => hostRead (readStatus s) s
  | .readPpm => hostRead (readPpm s) s
  | .readResp => hostRead (readResp s) s

/-- A transport that will answer at least one sink call: the bound one where it does, else one that answers OK once. -/
def ensureSinkAnswer (t : Option Transport) : Transport :=
  match t with
  | none => { sink := [.ok], source := [] }
  | some t => if t.sink.isEmpty then { t with sink := [.ok] } else t

/-- The bound transport, or where none is bound one that answers nothing. -/
def ensureBound (t : Option Transport) : Transport :=
  t.getD { sink := [], source := [] }

/-- `s` with the encoding where the next step fetches it (log 19): a request goes to the port of an idle, bound block; a
command packet into `tx`, to be sent from offset 0 with an answer at hand; a response into `rx`, received whole. -/
def placeEncoding (s : State) (e : Encoding) : State :=
  match e with
  | .request r => { s with host := some (.request r) :: s.host, phase := .idle, transport := some (ensureBound s.transport) }
  | .command p =>
    { s with host := none :: s.host, phase := .sending, tx := p, txIdx := 0, transport := some (ensureSinkAnswer s.transport) }
  | .response p => { s with host := none :: s.host, phase := .validating, rx := p, rxIdx := 9 }

/-- `placeEncoding` of a word of the opcode table; a word that is no encoding changes nothing. -/
def placeWord (s : State) (nbits w : Nat) : State :=
  match tableWord nbits w with
  | some e => placeEncoding s e
  | none => s

end Sys2Proof.Machine
end

