-- ==== Sys2Proof/Machine/Step.lean ====
section
/-! DEFINITION. The step (spec/00_scope.md R6). -/
namespace Sys2Proof.Machine

/-- One step: what `fetch` gives is run. -/
def step (s : State) : Host.Outcome State Fault Refusal :=
  match fetch s with
  | .instr i s' => exec i s'
  | .action a s' => actionStep a s'
  | .internal s' => internalStep s'

/-- `s` with the word stored where `step` fetches its next instruction (log 19). -/
def State.withFetchWord (s : State) (nbits w : Nat) : State :=
  placeWord s nbits w

end Sys2Proof.Machine
end

