-- ==== Sys2Proof/Safety.lean ====
section
/-! DEFINITION. What counts as a safe run: the invariant of the machine's states, the outcome an operation has by the spec's
priority, and what the host can see (spec/10_state.md R15, R26, R27; 20_memory.md R43; 60_exceptions.md R118, R119). -/
namespace Sys2Proof.Machine

/-! ## Histories and the invariant -/

/-- The events of the first `n` bytes of `p`, each sent with OK (R43, R82). -/
def sinkEvents (p : Packet) (n : Nat) : List Event :=
  (p.toList.take n).map (fun b => .sink b .ok)

/-- The events of the first `n` bytes of `p`, each received with OK (R43, R90). -/
def sourceEvents (p : Packet) (n : Nat) : List Event :=
  (p.toList.take n).map (fun b => .source (.ok b))

/-- What an operation that receives has sent before it (R86, R113): READ_CO2 its whole command, RECV_RESP nothing. -/
def sentBefore (s : State) : List Event :=
  if s.op = .readCo2 then sinkEvents s.tx 9 else []

/-- The operation receives a response (R113). -/
def receives (o : Op) : Prop :=
  o = .readCo2 ∨ o = .recvResp

/-- The packet the latched operation sends (R81, R103, R108); RECV_RESP sends none. -/
def commandOf (s : State) : Packet :=
  match s.op with
  | .readCo2 => frame codeReadCo2 payloadReadCo2
  | .setAbc => frame codeSetAbc (payloadSetAbc s.reqEn)
  | .sendCmd => frame s.reqCode s.reqPayload
  | .recvResp => s.tx

/-- Nine bytes came in, the first the start marker, and then the operation completed with `k` (R98). -/
def receivedWhole (s : State) (k : Kind) : Prop :=
  s.rx[0] = sentinel ∧ s.history = sentBefore s ++ sourceEvents s.rx 9 ++ [.complete k]

/-- What a completed operation with outcome `k` has done and left (R84, R92, R96, R98, R99, R105 to R107, R111, R118, R119).
That `rx` still holds the bytes received after an error is the model's choice (log 24). -/
def completedWith (s : State) : Kind → Prop
  | .none =>
    match s.op with
    | .readCo2 => receivedWhole s .none ∧ s.rx[8] = ck8 s.rx ∧ s.rx[1] = codeReadCo2 ∧ s.ppm = decodePpm s.rx
    | .setAbc => s.history = sinkEvents s.tx 9 ++ [.complete .none]
    | .sendCmd => s.history = sinkEvents s.tx 9 ++ [.complete .none]
    | .recvResp => receivedWhole s .none ∧ s.rx[8] = ck8 s.rx ∧ s.resp = s.rx
  | .writeFailure =>
    s.op ≠ .recvResp ∧
      ∃ n, ∃ h : n < 9, s.history = sinkEvents s.tx n ++ [.sink s.tx[n] .fail, .complete .writeFailure]
  | .invalidStartByte =>
    receives s.op ∧ ∃ b, b ≠ sentinel ∧ s.history = sentBefore s ++ [.source (.ok b), .complete .invalidStartByte]
  | .badChecksum => receives s.op ∧ receivedWhole s .badChecksum ∧ s.rx[8] ≠ ck8 s.rx
  | .readFailure =>
    receives s.op ∧ ∃ n, n < 9 ∧ (0 < n → s.rx[0] = sentinel) ∧
      s.history = sentBefore s ++ sourceEvents s.rx n ++ [.source .fail, .complete .readFailure]
  | .invalidResponseCommand =>
    s.op = .readCo2 ∧ receivedWhole s .invalidResponseCommand ∧ s.rx[8] = ck8 s.rx ∧ s.rx[1] ≠ codeReadCo2

/-- The machine's invariant: what holds in every phase of an operation and after it (R14, R15, R17, R18, R21, R43, R80). -/
structure StateInv (s : State) : Prop where
  /-- The byte indices stop at 9 (R14). -/
  txBound : s.txIdx ≤ 9
  rxBound : s.rxIdx ≤ 9
  /-- A running operation has a transport (R139) and no valid result (R21). -/
  busyBound : busy s = true → s.transport ≠ none
  busyNoResult : busy s = true → s.resultValid = false
  /-- While sending, the whole command is in `tx` (R80) and exactly the bytes before `tx_idx` are sent (R82). -/
  sending : s.phase = .sending →
    s.txIdx < 9 ∧ s.op ≠ .recvResp ∧ s.tx = commandOf s ∧ s.history = sinkEvents s.tx s.txIdx
  /-- While receiving, exactly the bytes before `rx_idx` are in (R90), the first the start marker (R92). -/
  receiving : s.phase = .receiving →
    s.rxIdx < 9 ∧ receives s.op ∧ s.tx = commandOf s ∧ (0 < s.rxIdx → s.rx[0] = sentinel) ∧
      s.history = sentBefore s ++ sourceEvents s.rx s.rxIdx
  /-- Validation comes only after all nine bytes (R97). -/
  validating : s.phase = .validating →
    s.rxIdx = 9 ∧ receives s.op ∧ s.tx = commandOf s ∧ s.rx[0] = sentinel ∧
      s.history = sentBefore s ++ sourceEvents s.rx 9
  /-- A valid result belongs to a completed operation (R21). -/
  completed : s.resultValid = true → s.tx = commandOf s ∧ ∃ k : Kind, s.status = k.code ∧ completedWith s k

/-! ## The outcome by priority -/

/-- The outcome of `n` sink calls (R119, 1): the first failure ends them; where the answers run out there is none. -/
def sendOutcome : Nat → List SinkAnswer → Option Kind
  | 0, _ => some .none
  | _ + 1, [] => none
  | n + 1, .ok :: rest => sendOutcome n rest
  | _ + 1, .fail :: _ => some .writeFailure

/-- The bytes of `n` source calls: none where the answers run out, `some none` where one fails. -/
def collect : Nat → List SourceAnswer → Option (Option (List Byte))
  | 0, _ => some (some [])
  | _ + 1, [] => none
  | _ + 1, .fail :: _ => some none
  | n + 1, .ok b :: rest => (collect n rest).map (Option.map (b :: ·))

/-- The outcome of judging the nine bytes `FF b1 .. b8` (R119, 5 to 7). -/
def judgeOutcome (o : Op) (bs : List Byte) : Kind :=
  match packetOfBytes (sentinel :: bs) with
  | .error _ => .readFailure
  | .ok p =>
    if p[8] ≠ ck8 p then .badChecksum
    else if o = .readCo2 ∧ p[1] ≠ codeReadCo2 then .invalidResponseCommand
    else .none

/-- The outcome of a reception (R119, 2 to 7). -/
def receiveOutcome (o : Op) : List SourceAnswer → Option Kind
  | [] => none
  | .fail :: _ => some .readFailure
  | .ok b :: rest =>
    if b ≠ sentinel then some .invalidStartByte
    else (collect 8 rest).map (fun r => match r with | none => .readFailure | some bs => judgeOutcome o bs)

/-- The outcome of an operation on a transport, by the priority of R119; none where a call is never answered (R132). -/
def outcome (o : Op) (t : Transport) : Option Kind :=
  match o with
  | .setAbc => sendOutcome 9 t.sink
  | .sendCmd => sendOutcome 9 t.sink
  | .recvResp => receiveOutcome .recvResp t.source
  | .readCo2 =>
    match sendOutcome 9 t.sink with
    | some .none => receiveOutcome .readCo2 t.source
    | r => r

/-- The operation a request names (R55). -/
def opOf (r : Request) : Op :=
  if r.op = 0 then .readCo2 else if r.op = 1 then .setAbc else if r.op = 2 then .sendCmd else .recvResp

/-- The packet a sending request sends (R79, R81, R103, R108); RECV_RESP sends none. -/
def packetOf (r : Request) : Option Packet :=
  match opOf r with
  | .readCo2 => some (frame codeReadCo2 payloadReadCo2)
  | .setAbc => some (frame codeSetAbc (payloadSetAbc r.en))
  | .sendCmd => some (frame r.code r.payload)
  | .recvResp => none

/-! ## What the host sees -/

/-- The host does nothing at the coming step, so the block takes its own (log 3). -/
def hostSilent (s : State) : Prop :=
  s.host = [] ∨ ∃ rest, s.host = none :: rest

/-- The result port (R26), each value only where it is defined, with the transport calls made (R27, R43). -/
structure HostView where
  busy : Bool
  resultValid : Bool
  status : Option StatusCode
  ppm : Option Ppm
  resp : Option Packet
  history : List Event
  lastRead : Option PortValue
  transport : Option Transport
deriving DecidableEq, Repr

/-- What the host and the transport can see of a state (R26, R27). -/
def hostView (s : State) : HostView where
  busy := Machine.busy s
  resultValid := s.resultValid
  status := if statusDefined s then some s.status else none
  ppm := if ppmDefined s then some s.ppm else none
  resp := if respDefined s then some s.resp else none
  history := s.history
  lastRead := s.lastRead
  transport := s.transport

/-- A claim about the block, as R27 lets one be made: about what the host and the transport can see. Its type has no hidden
state to read (log 23). -/
def Claim : Type := HostView → Prop

/-- The claim is true of the state. -/
def Claim.holds (c : Claim) (s : State) : Prop :=
  c (hostView s)

/-- What an operation, or a part of it, does on a transport: its calls with their answers, what it leaves of the transport,
its outcome (none where a call is never answered), and the response it accepts. -/
structure Trace where
  calls : List Event
  left : Transport
  outcome : Option Kind
  value : Option Packet
deriving DecidableEq, Repr

/-- The trace with a call before it. -/
def Trace.after (e : Event) (q : Trace) : Trace :=
  { q with calls := e :: q.calls }

/-- The trace of sending these bytes (R82 to R84). -/
def sendTrace : List Byte → List SinkAnswer → List SourceAnswer → Trace
  | [], sink, src => ⟨[], ⟨sink, src⟩, some .none, none⟩
  | _ :: _, [], src => ⟨[], ⟨[], src⟩, none, none⟩
  | b :: bs, .ok :: rest, src => (sendTrace bs rest src).after (.sink b .ok)
  | b :: _, .fail :: rest, src => ⟨[.sink b .fail], ⟨rest, src⟩, some .writeFailure, none⟩

/-- The outcome of the nine bytes received, and the response where it is accepted (R62, R96). -/
def judgeTrace (o : Op) (bs : List Byte) (sink : List SinkAnswer) (src : List SourceAnswer) : Trace :=
  match packetOfBytes bs with
  | .error _ => ⟨[], ⟨sink, src⟩, none, none⟩
  | .ok p =>
    if p[8] ≠ ck8 p then ⟨[], ⟨sink, src⟩, some .badChecksum, none⟩
    else if o = .readCo2 ∧ p[1] ≠ codeReadCo2 then ⟨[], ⟨sink, src⟩, some .invalidResponseCommand, none⟩
    else ⟨[], ⟨sink, src⟩, some .none, some p⟩

/-- The trace of receiving `n` more bytes after `got` (R90, R92, R98), then judging them. -/
def receiveTrace (o : Op) (sink : List SinkAnswer) : Nat → List Byte → List SourceAnswer → Trace
  | 0, got, src => judgeTrace o got sink src
  | _ + 1, _, [] => ⟨[], ⟨sink, []⟩, none, none⟩
  | _ + 1, _, .fail :: rest => ⟨[.source .fail], ⟨sink, rest⟩, some .readFailure, none⟩
  | n + 1, got, .ok b :: rest =>
    if got = [] ∧ b ≠ sentinel then ⟨[.source (.ok b)], ⟨sink, rest⟩, some .invalidStartByte, none⟩
    else (receiveTrace o sink n (got ++ [b]) rest).after (.source (.ok b))

/-- The trace of a whole operation (R81, R89, R103, R108): READ_CO2 receives after a transmission that succeeded (R86). -/
def operationTrace (r : Request) (t : Transport) : Trace :=
  match packetOf r with
  | none => receiveTrace .recvResp t.sink 9 [] t.source
  | some p =>
    let q := sendTrace p.toList t.sink t.source
    if opOf r = .readCo2 ∧ q.outcome = some .none then
      let q2 := receiveTrace .readCo2 q.left.sink 9 [] q.left.source
      { q2 with calls := q.calls ++ q2.calls }
    else q

/-- What the host and the transport see when the operation has ended, or hangs: the result port where it is defined (R26), the
calls made, and what is left of the transport (R142, R143). `l` is what the host last read. -/
def viewAfter (r : Request) (t : Transport) (l : Option PortValue) : HostView :=
  let q := operationTrace r t
  match q.outcome with
  | none => { busy := true, resultValid := false, status := none, ppm := none, resp := none, history := q.calls, lastRead := l,
              transport := some q.left }
  | some k => { busy := false, resultValid := true, status := some k.code,
                ppm := if opOf r = .readCo2 then q.value.map decodePpm else none,
                resp := if opOf r = .recvResp then q.value else none,
                history := q.calls ++ [.complete k], lastRead := l, transport := some q.left }

/-- Two outcomes of a run that look the same from outside. -/
def sameOutside : Result → Result → Prop
  | .next s, .next t => hostView s = hostView t
  | .fault f, .fault g => f = g
  | .refused r, .refused q => r = q
  | .next _, .fault _ => False
  | .next _, .refused _ => False
  | .fault _, .next _ => False
  | .fault _, .refused _ => False
  | .refused _, .next _ => False
  | .refused _, .fault _ => False

/-- The host respects its duties at the coming step (R140, R144): no request while busy, none without a transport, no binding
while busy, no read of an undefined result. -/
def hostRespects (s : State) : Bool :=
  match s.host with
  | [] => true
  | none :: _ => true
  | some (.request _) :: _ => !busy s && s.transport.isSome
  | some (.bind _) :: _ => !busy s
  | some .reset :: _ => true
  | some .readBusy :: _ => true
  | some .readResultValid :: _ => true
  | some .readStatus :: _ => statusDefined s
  | some .readPpm :: _ => ppmDefined s
  | some .readResp :: _ => respDefined s

end Sys2Proof.Machine
end

