-- ==== Sys2Proof/Certificates/Slice0/Obligations.lean ====
section
/-! DEFINITION. The statements for the provers. What a free value leaves is bound by an "exists" in each, so that the statement
holds for every value of it.
A statement that names `phase`, `op`, a latch, `tx`, `rx`, an index or `acc` is a law of the model's registers, stated as the
rules' own pseudocode and tables state it. It is no claim about the hardware, which R27 lets read only what a `Claim` can
(log 23): those are the statements of the last section, with the result port's and the reset's. -/
open Sys2Proof Sys2Proof.Machine

/-! ## Encodings -/

/-- 30_encoding.md R47, R53, R55 and section 7: no bit of a well-formed instruction's word is dropped, with every operand at
every value. The place of a request's operand bits is the model's own choice (log 11). -/
def Obligations.DecodeOfEncodedWordIsTheInstruction : Prop :=
  ∀ i : Instr, i.wf = true → decodeWord i.format (encodeWord i) = .ok i

/-- R47, R48, R49, R53: nine bytes with the fixed bytes of a format decode as a packet of it, and no others do; a rejection
names the first fixed byte that is wrong. That decoding leaves offset 8 to the validation step, where R53 and R62 also ask
CK8, is the model's choice (log 9). -/
def Obligations.PacketIsDecodedExactlyWhenItsFixedBytesAreRight : Prop :=
  ∀ p : Packet,
    ((∃ i, decodeCommand p = .ok i) ↔ p[0] = 0xFF ∧ p[1] = 0x01) ∧
    ((∃ i, decodeResponse p = .ok i) ↔ p[0] = 0xFF) ∧
    (p[0] ≠ 0xFF → decodeCommand p = .error (.badStartMarker p[0]) ∧ decodeResponse p = .error (.badStartMarker p[0])) ∧
    (p[0] = 0xFF → p[1] ≠ 0x01 → decodeCommand p = .error (.badReservedByte p[1]))

/-- Words written out from R55, R68 and 95_test_vectors.md decode to what they stand for. -/
def Obligations.WordsOfTheSpecDecode : Prop :=
  decodeTableWord 8 0b00 = some .readCo2 ∧
  decodeTableWord 8 0b01 = some (.setAbc false) ∧
  decodeTableWord 8 0b10 = some (.sendCmd 0 #v[0, 0, 0, 0, 0]) ∧
  decodeTableWord 8 0b11 = some .recvResp ∧
  decodeTableWord 72 0xFF0186000000000079 = some .cmdReadCo2 ∧
  decodeTableWord 72 0xFF0179A000000000E6 = some (.cmdSetAbc true 0xE6) ∧
  decodeTableWord 72 0xFF0179000000000086 = some (.cmdSetAbc false 0x86) ∧
  decodeTableWord 72 0xFF01990000001388CB = some (.cmdFrame 0x99 #v[0, 0, 0, 0x13, 0x88] 0xCB) ∧
  decodeTableWord 72 0xFF86038400000000F3 = some (.rspReadCo2 0x03 0x84 #v[0, 0, 0, 0] 0xF3) ∧
  decodeTableWord 72 0xFF87038400000000F2 = some (.rspFrame 0x87 #v[0x03, 0x84, 0, 0, 0, 0] 0xF2) ∧
  decodeTableWord 72 0xFE86038400000000F3 = none

/-- R56: a field an operation does not read has no effect on it, and every value of the fields it reads is accepted. That such a
field does not even reach its latch, so that the whole next states are equal, is the model's reading of R16 (log 14). -/
def Obligations.RequestFieldNotReadHasNoEffect : Prop :=
  ∀ (r r' : Request) (s : State), r.op = r'.op → (r.op = 1 → r.en = r'.en) →
    (r.op = 2 → r.code = r'.code ∧ r.payload = r'.payload) →
    exec (decodeRequest r) s = exec (decodeRequest r') s ∧
    (s.phase = .idle → s.transport ≠ none → ∃ t, exec (decodeRequest r) s = .next t)

/-! ## Checksum -/

/-- R70: the expressions of the checksum are equal for every 8-bit sum, and CK8 is each of them on its span's sum. -/
def Obligations.ChecksumExpressionsAreEqual : Prop :=
  (∀ s : Byte,
    BitVec.ofNat 8 ((0x100 - s.toNat) % 256) = 0xFF - s + 1 ∧
    BitVec.ofNat 8 ((0x100 - s.toNat) % 256) = -s ∧
    BitVec.ofNat 8 ((0x100 - s.toNat) % 256) = ~~~s + 1) ∧
  (∀ p : Packet, ck8 p = 0xFF - spanSum p + 1 ∧ ck8 p = -spanSum p ∧ ck8 p = ~~~(spanSum p) + 1)

/-- R73 to R75: the accumulator cleared, one byte added, and the read-out; no other state is written. -/
def Obligations.AccumulatorMicroOperations : Prop :=
  ∀ (s : State) (b : Byte),
    opCk8Clr s = { s with acc := 0x00 } ∧
    opCk8Add b s = { s with acc := BitVec.ofNat 8 ((s.acc.toNat + b.toNat) % 256) } ∧
    opCk8Out s = BitVec.ofNat 8 ((0x100 - s.acc.toNat) % 256)

/-- R76: from a cleared accumulator the seven bytes, added in any order, leave the span's sum, and the read-out is CK8. -/
def Obligations.AccumulatorComputesChecksumInAnyOrder : Prop :=
  ∀ (p : Packet) (l : List Byte) (s : State), l.Perm [p[1], p[2], p[3], p[4], p[5], p[6], p[7]] →
    (l.foldl (fun s b => opCk8Add b s) (opCk8Clr s)).acc =
      BitVec.ofNat 8 ((p[1].toNat + p[2].toNat + p[3].toNat + p[4].toNat + p[5].toNat + p[6].toNat + p[7].toNat) % 256) ∧
    opCk8Out (l.foldl (fun s b => opCk8Add b s) (opCk8Clr s)) = ck8 p

/-- R77, the check law and its converse. -/
def Obligations.ChecksumCheckLaw : Prop :=
  ∀ p : Packet,
    (p[1].toNat + p[2].toNat + p[3].toNat + p[4].toNat + p[5].toNat + p[6].toNat + p[7].toNat + (ck8 p).toNat) % 256 = 0 ∧
    (p[8] = ck8 p ↔
      (p[1].toNat + p[2].toNat + p[3].toNat + p[4].toNat + p[5].toNat + p[6].toNat + p[7].toNat + p[8].toNat) % 256 = 0)

/-- R78: the corner values, what CK8 ignores, and what it always detects. -/
def Obligations.ChecksumCornerCasesAndDetection : Prop :=
  (∀ a b : Byte,
    ck8 #v[a, 0, 0, 0, 0, 0, 0, 0, b] = 0x00 ∧
    ck8 #v[a, 0xFF, 0xFF, 0xFF, 0xFF, 0xFF, 0xFF, 0xFF, b] = 0x07 ∧
    ck8 #v[a, 0x01, 0xFF, 0, 0, 0, 0, 0, b] = 0x00 ∧
    ck8 #v[a, 0x80, 0, 0, 0, 0, 0, 0, b] = 0x80) ∧
  (∀ p : Packet, (spanTotal p = 256 → spanSum p = 0x00 ∧ ck8 p = 0x00) ∧
    (spanSum p = 0x80 → ck8 p = 0x80 ∧ ck8 p = spanSum p)) ∧
  (∀ (p : Packet) (b : Byte), ck8 (p.set 0 b) = ck8 p ∧ ck8 (p.set 8 b) = ck8 p) ∧
  (∀ (p : Packet) (i : Nat) (hi : 1 ≤ i ∧ i ≤ 7) (d : Byte), d ≠ 0 →
    ck8 (p.set i (p[i] + d)) = ck8 p - d ∧ ck8 (p.set i (p[i] + d)) ≠ ck8 p)

/-! ## Framing and operands -/

/-- R79: the framed packet, byte by byte. -/
def Obligations.FramedPacketLayout : Prop :=
  ∀ (code : Byte) (p : Payload),
    frame code p = #v[0xFF, 0x01, code, p[0], p[1], p[2], p[3], p[4], ck8 (frame code p)]

/-- R57, R58, R68, R104: the payloads and the whole packets of the public operations. -/
def Obligations.PublicCommandPackets : Prop :=
  payloadSetAbc true = #v[0xA0, 0, 0, 0, 0] ∧ payloadSetAbc false = #v[0, 0, 0, 0, 0] ∧
  payloadReadCo2 = #v[0, 0, 0, 0, 0] ∧
  frame codeReadCo2 payloadReadCo2 = #v[0xFF, 0x01, 0x86, 0, 0, 0, 0, 0, 0x79] ∧
  frame codeSetAbc (payloadSetAbc true) = #v[0xFF, 0x01, 0x79, 0xA0, 0, 0, 0, 0, 0xE6] ∧
  frame codeSetAbc (payloadSetAbc false) = #v[0xFF, 0x01, 0x79, 0, 0, 0, 0, 0, 0x86]

/-- R60: the concentration is big-endian and unsigned, and nothing else of the response reaches it. -/
def Obligations.ConcentrationIsBigEndian : Prop :=
  ∀ p : Packet, (decodePpm p).toNat = p[2].toNat * 256 + p[3].toNat

/-! ## Acceptance of the four requests -/

/-- R103, R80: READ_CO2 accepted. All of the state is named; what is not changed is as before. `acc` by log 13, the latches
not named by log 14, the history's start by log 15. -/
def Obligations.ReadCo2IsAcceptedWhenIdle : Prop :=
  ∀ s : State, s.phase = .idle → s.transport ≠ none →
    exec .readCo2 s =
      .next { s with op := .readCo2, resultValid := false, tx := #v[0xFF, 0x01, 0x86, 0, 0, 0, 0, 0, 0x79], txIdx := 0,
                     phase := .sending, acc := 0x87, history := [] }

/-- R108, R109: SET_ABC accepted (`acc` by log 13, the latches not named by log 14, the history's start by log 15). -/
def Obligations.SetAbcIsAcceptedWhenIdle : Prop :=
  ∀ (s : State) (en : Bool), s.phase = .idle → s.transport ≠ none →
    exec (.setAbc en) s =
      .next { s with op := .setAbc, reqEn := en, resultValid := false,
                     tx := #v[0xFF, 0x01, 0x79, if en then 0xA0 else 0, 0, 0, 0, 0, if en then 0xE6 else 0x86], txIdx := 0,
                     phase := .sending, acc := if en then 0x1A else 0x7A, history := [] }

/-- R81, R59: SEND_CMD accepted, for every code and payload (`acc` by log 13, the latch not named by log 14, the history's start
by log 15). -/
def Obligations.SendCmdIsAcceptedWhenIdle : Prop :=
  ∀ (s : State) (code : Byte) (p : Payload), s.phase = .idle → s.transport ≠ none →
    exec (.sendCmd code p) s =
      .next { s with op := .sendCmd, reqCode := code, reqPayload := p, resultValid := false,
                     tx := #v[0xFF, 0x01, code, p[0], p[1], p[2], p[3], p[4], ck8 (frame code p)], txIdx := 0,
                     phase := .sending, acc := spanSum (frame code p), history := [] }

/-- R89: RECV_RESP accepted (that `req_en`, `req_code` and `req_payload` stay by log 14, the history's start by log 15, that `rx`
keeps its bytes by log 22). -/
def Obligations.RecvRespIsAcceptedWhenIdle : Prop :=
  ∀ s : State, s.phase = .idle → s.transport ≠ none →
    exec .recvResp s =
      .next { s with op := .recvResp, resultValid := false, rxIdx := 0, phase := .receiving, history := [] }

/-- R30, R140 (U14), R139 (U11): when the four requests are refused. -/
def Obligations.RequestIsRefusedWhileBusyOrUnbound : Prop :=
  ∀ (r : Request) (s : State),
    (s.phase ≠ .idle → exec (decodeRequest r) s = .refused .requestWhileBusy) ∧
    (s.phase = .idle → s.transport = none → exec (decodeRequest r) s = .refused .noTransportBound)

/-! ## Transmission: the steps of the command packets -/

/-- R87, R82: CMD_READ_CO2, CMD_SET_ABC and CMD_FRAME at a byte before the last, answered OK. All of the state is named. -/
def Obligations.CommandByteIsSent : Prop :=
  ∀ (i : Instr) (p : Packet) (s : State) (t : Transport) (rest : List SinkAnswer),
    encode i = .command p → s.phase = .sending → (h : s.txIdx < 8) → s.transport = some t → t.sink = .ok :: rest →
    exec i s =
      .next { s with transport := some { t with sink := rest }, txIdx := s.txIdx + 1,
                     history := s.history ++ [.sink p[s.txIdx] .ok] }

/-- R86, R87: the same packets at the last byte, answered OK: READ_CO2 goes on to reception (that `rx` keeps its bytes by log
22). Any other operation completes with NONE, and what `ppm` and `resp` then hold is free (R22, R23). -/
def Obligations.CommandLastByteIsSent : Prop :=
  ∀ (i : Instr) (p : Packet) (s : State) (t : Transport) (rest : List SinkAnswer),
    encode i = .command p → s.phase = .sending → s.txIdx = 8 → s.transport = some t → t.sink = .ok :: rest →
    (s.op = .readCo2 → exec i s =
      .next { s with transport := some { t with sink := rest }, txIdx := 9, history := s.history ++ [.sink p[8] .ok],
                     rxIdx := 0, phase := .receiving }) ∧
    (s.op ≠ .readCo2 → ∃ v r d, exec i s =
      .next { s with transport := some { t with sink := rest }, txIdx := 9,
                     history := s.history ++ [.sink p[8] .ok, .complete .none], phase := .idle, status := 0,
                     resultValid := true, ppm := v, resp := r, draws := d })

/-- R83: a sink failure at any byte of the same packets ends the operation with WRITE_FAILURE. That `tx_idx` then still says
which byte failed is the model's choice (log 24). -/
def Obligations.SinkFailureEndsTheOperation : Prop :=
  ∀ (i : Instr) (p : Packet) (s : State) (t : Transport) (rest : List SinkAnswer),
    encode i = .command p → s.phase = .sending → (h : s.txIdx < 9) → s.transport = some t → t.sink = .fail :: rest →
    ∃ v r d, exec i s =
      .next { s with transport := some { t with sink := rest },
                     history := s.history ++ [.sink p[s.txIdx] .fail, .complete .writeFailure], phase := .idle, status := 1,
                     resultValid := true, ppm := v, resp := r, draws := d }

/-- R84: the calls of a transmission, from the acceptance of the request on. All nine answered OK, exactly the packet is sent.
The (n+1)-th failing, exactly n bytes were sent before it and none after it. -/
def Obligations.TransmissionMakesExactlyTheseCalls : Prop :=
  ∀ (s : State) (r : Request) (p : Packet) (rest : List SinkAnswer) (src : List SourceAnswer),
    s.phase = .idle → s.host = [some (.request r)] → packetOf r = some p →
    (s.transport = some { sink := List.replicate 9 .ok ++ rest, source := src } →
      ∃ s', core.run 10 s = .next s' ∧ s'.transport = some { sink := rest, source := src } ∧
        (opOf r = .readCo2 → s'.phase = .receiving ∧ s'.history = sinkEvents p 9) ∧
        (opOf r ≠ .readCo2 → s'.phase = .idle ∧ s'.status = 0 ∧ s'.resultValid = true ∧
          s'.history = sinkEvents p 9 ++ [.complete .none])) ∧
    (∀ (n : Nat) (hn : n < 9),
      s.transport = some { sink := List.replicate n .ok ++ .fail :: rest, source := src } →
      ∃ s', core.run (n + 2) s = .next s' ∧ s'.transport = some { sink := rest, source := src } ∧
        s'.phase = .idle ∧ s'.status = 1 ∧ s'.resultValid = true ∧
        s'.history = sinkEvents p n ++ [.sink p[n] .fail, .complete .writeFailure])

/-! ## Reception -/

/-- R90, R93 to R95: a byte received with OK, other than a wrong start byte, is stored and counted; the ninth leads to
validation. That the bytes beyond it stay is the model's choice (log 22). -/
def Obligations.ReceivedByteIsStored : Prop :=
  ∀ (s : State) (t : Transport) (b : Byte) (rest : List SourceAnswer),
    s.phase = .receiving → hostSilent s → (h : s.rxIdx < 9) → s.transport = some t → t.source = .ok b :: rest →
    (s.rxIdx = 0 → b = 0xFF) →
    step s =
      .next { s with host := s.host.tail, transport := some { t with source := rest }, rx := s.rx.set s.rxIdx b,
                     rxIdx := s.rxIdx + 1, history := s.history ++ [.source (.ok b)],
                     phase := if s.rxIdx = 8 then .validating else .receiving }

/-- R92: a first byte other than the start marker ends the operation with INVALID_START_BYTE. In states that meet the invariant
it is the operation's first source call. What `rx` then holds is the model's choice (log 22, log 24). -/
def Obligations.WrongStartByteEndsTheOperation : Prop :=
  ∀ (s : State) (t : Transport) (b : Byte) (rest : List SourceAnswer),
    s.phase = .receiving → hostSilent s → s.rxIdx = 0 → s.transport = some t → t.source = .ok b :: rest → b ≠ 0xFF →
    (∃ v r d, step s =
      .next { s with host := s.host.tail, transport := some { t with source := rest }, rx := s.rx.set 0 b,
                     history := s.history ++ [.source (.ok b), .complete .invalidStartByte], phase := .idle, status := 2,
                     resultValid := true, ppm := v, resp := r, draws := d }) ∧
    (StateInv s → s.history = sentBefore s ∧ ∀ a, Event.source a ∉ s.history)

/-- R98, R101: a source failure at any byte ends the operation with READ_FAILURE, and nothing is written into `rx`. In states
that meet the invariant, the operation's source calls are that failure and the bytes before it, all answered OK. That `rx` and `rx_idx` keep the bytes received and their number
after the error is the model's choice (log 24). -/
def Obligations.SourceFailureEndsTheOperation : Prop :=
  ∀ (s : State) (t : Transport) (rest : List SourceAnswer),
    s.phase = .receiving → hostSilent s → s.rxIdx < 9 → s.transport = some t → t.source = .fail :: rest →
    (∃ v r d, step s =
      .next { s with host := s.host.tail, transport := some { t with source := rest },
                     history := s.history ++ [.source .fail, .complete .readFailure], phase := .idle, status := 4,
                     resultValid := true, ppm := v, resp := r, draws := d }) ∧
    (StateInv s → s.history = sentBefore s ++ sourceEvents s.rx s.rxIdx)

/-! ## Validation: the steps of the response packets -/

/-- R106, R96: RSP_READ_CO2 with the right checksum, received by READ_CO2: the concentration, `resp` free (`acc` by log 13). -/
def Obligations.ReadCo2ResponseIsDecoded : Prop :=
  ∀ (s : State) (hi lo : Byte) (q : Vector Byte 4) (k : Byte) (p : Packet),
    p = #v[0xFF, 0x86, hi, lo, q[0], q[1], q[2], q[3], k] → s.phase = .validating → s.op = .readCo2 → k = ck8 p →
    ∃ r d, exec (.rspReadCo2 hi lo q k) s =
      .next { s with ppm := decodePpm p, status := 0, resultValid := true, phase := .idle,
                     history := s.history ++ [.complete .none], acc := spanSum p, resp := r, draws := d }

/-- R105: RSP_FRAME with the right checksum and another echo, received by READ_CO2 (`acc` by log 13; `rx` kept by
log 24; `ppm` is then free, R22). -/
def Obligations.WrongEchoIsReported : Prop :=
  ∀ (s : State) (echo : Byte) (q : Vector Byte 6) (k : Byte) (p : Packet),
    p = #v[0xFF, echo, q[0], q[1], q[2], q[3], q[4], q[5], k] → s.phase = .validating → s.op = .readCo2 → k = ck8 p →
    echo ≠ 0x86 →
    ∃ v r d, exec (.rspFrame echo q k) s =
      .next { s with status := 5, resultValid := true, phase := .idle,
                     history := s.history ++ [.complete .invalidResponseCommand], acc := spanSum p, ppm := v, resp := r,
                     draws := d }

/-- R99, R89: RSP_READ_CO2 and RSP_FRAME with the right checksum and any echo, received by RECV_RESP (`acc` by log 13). -/
def Obligations.ReceivedResponseIsHandedOver : Prop :=
  ∀ (i : Instr) (s : State) (p : Packet),
    encode i = .response p → s.phase = .validating → s.op = .recvResp → p[8] = ck8 p →
    ∃ v d, exec i s =
      .next { s with resp := p, status := 0, resultValid := true, phase := .idle,
                     history := s.history ++ [.complete .none], acc := spanSum p, ppm := v, draws := d }

/-- R96: RSP_READ_CO2 and RSP_FRAME with a wrong checksum, whatever the operation and the echo (`acc` by log 13; `rx` kept by
log 24). -/
def Obligations.WrongChecksumIsReportedFirst : Prop :=
  ∀ (i : Instr) (s : State) (p : Packet),
    encode i = .response p → s.phase = .validating → p[8] ≠ ck8 p →
    ∃ v r d, exec i s =
      .next { s with status := 3, resultValid := true, phase := .idle,
                     history := s.history ++ [.complete .badChecksum], acc := spanSum p, ppm := v, resp := r, draws := d }

/-- R87, R96: a packet's step is enabled in its own phase only (log 18 for the refusal's name). -/
def Obligations.PacketStepIsEnabledInItsPhaseOnly : Prop :=
  ∀ (i : Instr) (p : Packet) (s : State),
    (encode i = .command p → s.phase ≠ .sending ∨ 9 ≤ s.txIdx → exec i s = .refused .stepNotEnabled) ∧
    (encode i = .response p → s.phase ≠ .validating → exec i s = .refused .stepNotEnabled)

/-! ## Completion, status and waiting -/

/-- R115: the codes of the six outcomes. -/
def Obligations.OutcomeCodes : Prop :=
  Kind.none.code = 0 ∧ Kind.writeFailure.code = 1 ∧ Kind.invalidStartByte.code = 2 ∧ Kind.badChecksum.code = 3 ∧
  Kind.readFailure.code = 4 ∧ Kind.invalidResponseCommand.code = 5

/-- R20, R117, R136: `status` changes only in the completion step: the step of a running operation that records, after at most
one call, the outcome it writes, makes the result valid and returns to IDLE. A reset does not write it. -/
def Obligations.OnlyCompletionWritesStatus : Prop :=
  ∀ s s' : State, step s = .next s' →
    s'.status = s.status ∨
    (s.phase ≠ .idle ∧ ∃ k h, h.length ≤ 1 ∧ s'.history = s.history ++ h ++ [.complete k] ∧ s'.status = k.code ∧
      s'.resultValid = true ∧ s'.phase = .idle)

/-- R133: no step writes a status of 6 or 7, none makes one readable, and a read that finds one is a fault. -/
def Obligations.StatusCodesSixAndSevenAreNeverWritten : Prop :=
  (∀ s s' : State, step s = .next s' → s'.status = s.status ∨ s'.status.toNat < 6) ∧
  (∀ s s' : State, step s = .next s' → (s.resultValid = true → s.status.toNat < 6) →
    s'.resultValid = true → s'.status.toNat < 6) ∧
  (∀ s : State, s.resultValid = true → 6 ≤ s.status.toNat → readStatus s = .error .unusedStatusCode)

/-- R16: the latched operation and operands change only when a request is accepted in IDLE, or at a reset. -/
def Obligations.LatchesChangeOnlyAtAcceptance : Prop :=
  ∀ s s' : State, step s = .next s' → (∀ rest, s.host ≠ some .reset :: rest) →
    (∀ r rest, s.host ≠ some (.request r) :: rest) →
    s'.op = s.op ∧ s'.reqEn = s.reqEn ∧ s'.reqCode = s.reqCode ∧ s'.reqPayload = s.reqPayload

/-- R132, R128, R146: a call that is never answered leaves the block waiting for ever, however many steps are taken. -/
def Obligations.UnansweredCallHangsForEver : Prop :=
  ∀ (s : State) (t : Transport) (n : Nat), s.host = [] → s.transport = some t →
    (s.phase = .sending ∧ s.txIdx < 9 ∧ t.sink = []) ∨ (s.phase = .receiving ∧ s.rxIdx < 9 ∧ t.source = []) →
    core.run n s = .next s ∧ busy s = true

/-- R15: the transitions of the table are the only ones. A reset is left out (R135 has its own statement). -/
def Obligations.PhaseChangesOnlyByTheTable : Prop :=
  ∀ s s' : State, StateInv s → step s = .next s' → (∀ rest, s.host ≠ some .reset :: rest) →
    (s'.phase = s.phase ∨
     (∃ r rest, s.host = some (.request r) :: rest ∧ s.phase = .idle ∧
       s'.phase = if opOf r = .recvResp then .receiving else .sending) ∨
     (s.phase = .sending ∧ s'.phase = .receiving ∧ s.op = .readCo2 ∧ s.txIdx = 8 ∧
       s'.history = s.history ++ [.sink s.tx[8] .ok]) ∨
     (s.phase = .sending ∧ s'.phase = .idle ∧
       ((∃ b, s'.history = s.history ++ [.sink b .fail, .complete .writeFailure]) ∨
        (s.txIdx = 8 ∧ (s.op = .setAbc ∨ s.op = .sendCmd) ∧
          s'.history = s.history ++ [.sink s.tx[8] .ok, .complete .none]))) ∨
     (s.phase = .receiving ∧ s'.phase = .validating ∧ s.rxIdx = 8 ∧ ∃ b, s'.history = s.history ++ [.source (.ok b)]) ∨
     (s.phase = .receiving ∧ s'.phase = .idle ∧
       (s'.history = s.history ++ [.source .fail, .complete .readFailure] ∨
        (s.rxIdx = 0 ∧ ∃ b, b ≠ 0xFF ∧ s'.history = s.history ++ [.source (.ok b), .complete .invalidStartByte]))) ∨
     (s.phase = .validating ∧ s'.phase = .idle ∧ ∃ k, s'.history = s.history ++ [.complete k])) ∧
    (s.phase = .validating → hostSilent s → s'.phase = .idle)

/-! ## The machine as a whole -/

/-- The step runs the decoded instruction: the request at the port, the command in `tx`, the response in `rx` (R14, R15; log 3,
log 8). -/
def Obligations.StepRunsTheDecodedInstruction : Prop :=
  (∀ (s : State) (r : Request) (rest : List (Option HostAction)), s.host = some (.request r) :: rest →
    step s = exec (decodeRequest r) { s with host := rest }) ∧
  (∀ (s : State) (i : Instr), s.phase = .sending → decode (.command s.tx) = .ok i →
    (s.host = [] → step s = exec i s) ∧ (∀ rest, s.host = none :: rest → step s = exec i { s with host := rest })) ∧
  (∀ (s : State) (i : Instr), s.phase = .validating → decode (.response s.rx) = .ok i →
    (s.host = [] → step s = exec i s) ∧ (∀ rest, s.host = none :: rest → step s = exec i { s with host := rest }))

/-- A word of the opcode table, placed by `withFetchWord`, is run by the very next step (log 19). -/
def Obligations.PlacedWordIsRunNext : Prop :=
  ∀ (s : State) (nbits w : Nat) (i : Instr), decodeTableWord nbits w = some i →
    step (s.withFetchWord nbits w) = exec i { s.withFetchWord nbits w with host := s.host }

/-- R28, R135: what the spec gives for reset, and that the invariant holds then. -/
def Obligations.InvariantHoldsAtReset : Prop :=
  State.reset.phase = .idle ∧ busy State.reset = false ∧ State.reset.resultValid = false ∧ StateInv State.reset

/-- Every step keeps the invariant: the indices, the buffers, the history and the results of every phase and of every
completed operation are as the rules have them (R14, R15, R17, R18, R21, R43, R80, R97, R107, R111, R113, R118, R119).
What it says of `rx` after an error is the model's choice (log 24). -/
def Obligations.EveryStepKeepsTheInvariant : Prop :=
  ∀ s s' : State, StateInv s → step s = .next s' → StateInv s'

/-- R107, R111, R118: the outcomes each operation can have, after every step. -/
def Obligations.OutcomesOfEachOperation : Prop :=
  ∀ s₀ s : State, StateInv s₀ → step s₀ = .next s → s.resultValid = true →
    ∃ k : Kind, s.status = k.code ∧
      (s.op = .readCo2 → k = .none ∨ k = .writeFailure ∨ k = .readFailure ∨ k = .invalidStartByte ∨ k = .badChecksum ∨
        k = .invalidResponseCommand) ∧
      (s.op = .setAbc ∨ s.op = .sendCmd → k = .none ∨ k = .writeFailure) ∧
      (s.op = .recvResp → k = .none ∨ k = .readFailure ∨ k = .invalidStartByte ∨ k = .badChecksum)

/-- R110, R113, R43: after every step SET_ABC and SEND_CMD have made no source call, RECV_RESP no sink call, and no sink call
followed a source call. -/
def Obligations.ShapesOfTransportCalls : Prop :=
  ∀ s₀ s : State, StateInv s₀ → step s₀ = .next s → busy s = true ∨ s.resultValid = true →
    (s.op = .setAbc ∨ s.op = .sendCmd → ∀ a, Event.source a ∉ s.history) ∧
    (s.op = .recvResp → ∀ b a, Event.sink b a ∉ s.history) ∧
    (∀ h1 h2 a b c, s.history = h1 ++ Event.source a :: h2 → Event.sink b c ∉ h2)

/-- R119, R107, R111, R132: run to its end on any answers of the transport, an operation of any kind ends with the outcome
the spec's priority gives. Where a call is never answered, it hangs (log 1, log 2). -/
def Obligations.OperationEndsWithTheOutcomeOfThePriority : Prop :=
  ∀ (s : State) (r : Request) (t : Transport), s.phase = .idle → s.host = [some (.request r)] → s.transport = some t →
    ∃ n s', 1 ≤ n ∧ n ≤ 20 ∧ core.run n s = .next s' ∧
      match outcome (opOf r) t with
      | some k => s'.phase = .idle ∧ s'.resultValid = true ∧ s'.status = k.code
      | none => busy s' = true ∧ s'.resultValid = false ∧ ∀ m, core.run m s' = .next s'

/-- A host that respects its duties never meets a fault or a refusal (R137, R139, R140, R144). That it binds no transport while
busy is a duty by the model's choice (log 5). -/
def Obligations.DutifulHostIsNeverStopped : Prop :=
  ∀ s : State, StateInv s → hostRespects s = true → ∃ s', step s = .next s'

/-- R27: two idle blocks that look the same from outside, whatever their working state, look the same after any number of
steps. -/
def Obligations.WorkingStateOfAnIdleBlockHasNoLaterEffect : Prop :=
  ∀ (s t : State) (n : Nat), s.phase = .idle → t.phase = .idle → hostView s = hostView t → s.host = t.host →
    s.draws = t.draws → sameOutside (core.run n s) (core.run n t)

/-! ## The host's other actions -/

/-- R26, R31, R144: what a read of the result port gives, and when it is a fault. The read changes nothing else (`lastRead` by
log 16). -/
def Obligations.ResultPortReads : Prop :=
  ∀ (s : State) (rest : List (Option HostAction)),
    (s.host = some .readBusy :: rest →
      step s = .next { s with host := rest, lastRead := some (.busy (s.phase != .idle)) }) ∧
    (s.host = some .readResultValid :: rest →
      step s = .next { s with host := rest, lastRead := some (.resultValid s.resultValid) }) ∧
    (s.host = some .readStatus :: rest → s.resultValid = true → s.status.toNat < 6 →
      step s = .next { s with host := rest, lastRead := some (.status s.status) }) ∧
    (s.host = some .readStatus :: rest → s.resultValid = false → step s = .fault .resultNotValid) ∧
    (s.host = some .readPpm :: rest → s.resultValid = true ∧ s.op = .readCo2 ∧ s.status = 0 →
      step s = .next { s with host := rest, lastRead := some (.ppm s.ppm) }) ∧
    (s.host = some .readPpm :: rest → ¬ (s.resultValid = true ∧ s.op = .readCo2 ∧ s.status = 0) →
      step s = .fault .resultNotValid) ∧
    (s.host = some .readResp :: rest → s.resultValid = true ∧ s.op = .recvResp ∧ s.status = 0 →
      step s = .next { s with host := rest, lastRead := some (.resp s.resp) }) ∧
    (s.host = some .readResp :: rest → ¬ (s.resultValid = true ∧ s.op = .recvResp ∧ s.status = 0) →
      step s = .fault .resultNotValid)

/-- R135, R136: a reset, in any phase. No outcome, no call, no event, `status` not written; the transport keeps its answers but
for that of the call in progress, which may be lost (U4). That the transport stays bound is the model's choice (log 5), and so
is that the history is kept (log 15). -/
def Obligations.ResetAbandonsTheOperation : Prop :=
  ∀ (s : State) (rest : List (Option HostAction)), s.host = some .reset :: rest →
    ∃ s', step s = .next s' ∧ s'.phase = .idle ∧ s'.resultValid = false ∧ s'.status = s.status ∧
      s'.history = s.history ∧ s'.host = rest ∧ s'.lastRead = s.lastRead ∧
      (s'.transport = s.transport ∨
       (s.phase = .sending ∧ s'.transport = s.transport.map (fun t => { t with sink := t.sink.tail })) ∨
       (s.phase = .receiving ∧ s'.transport = s.transport.map (fun t => { t with source := t.source.tail })))

/-- R137, R138: after a reset at any time a bound block accepts a request of any operation. -/
def Obligations.BoundBlockAcceptsAnyRequestAfterReset : Prop :=
  ∀ (s : State) (r : Request), s.transport ≠ none → s.host = [some .reset, some (.request r)] →
    ∃ s', core.run 2 s = .next s' ∧ busy s' = true ∧ s'.op = opOf r ∧ s'.resultValid = false ∧ s'.history = []

/-- R123: while an operation runs, nothing the host does but a reset touches it. -/
def Obligations.HostCannotCancel : Prop :=
  ∀ (s s' : State) (a : HostAction) (rest : List (Option HostAction)), busy s = true → s.host = some a :: rest →
    a ≠ .reset → step s = .next s' → ∃ v, s' = { s with host := rest, lastRead := some v }

/-- R139: binding a transport, while idle (log 5 for the rest). -/
def Obligations.BindingWhileIdle : Prop :=
  ∀ (s : State) (t : Transport) (rest : List (Option HostAction)), s.host = some (.bind t) :: rest →
    (s.phase = .idle → step s = .next { s with host := rest, transport := some t }) ∧
    (s.phase ≠ .idle → step s = .refused .bindWhileBusy)

/-! ## Waiting, and what the host sees -/

/-- R14, R15, R30: an idle block with no request at its port makes no call and changes nothing. That this wait is a step is the
model's choice (log 2). -/
def Obligations.IdleBlockWaits : Prop :=
  ∀ s : State, s.phase = .idle → hostSilent s → step s = .next { s with host := s.host.tail }

/-- R27, R26: no claim can read the latches, the buffers, the indices, the accumulator, which busy phase the block is in, or,
where no result is valid, the latched operation. -/
def Obligations.ClaimsCannotReadHiddenState : Prop :=
  ∀ (c : Claim) (s : State) (ph : Phase) (o : Op) (en : Bool) (code : Byte) (pl : Payload) (tx rx : Packet) (i j : Nat) (a : Byte),
    (ph = .idle ↔ s.phase = .idle) → (s.resultValid = true → o = s.op) →
    (Claim.holds c { s with phase := ph, op := o, reqEn := en, reqCode := code, reqPayload := pl, tx := tx, txIdx := i, rx := rx,
                            rxIdx := j, acc := a } ↔ Claim.holds c s)

/-- R26, R43, R84, R92, R96, R98, R106, R107, R111, R142: what every claim finds after a request is run to its end, from the
request and the transport alone: the outcome, the value where one is defined, exactly the calls made and the answers left. A
call never answered leaves the block busy, with the calls so far, for ever (log 1, log 2, log 15). -/
def Obligations.OperationAsTheHostSeesIt : Prop :=
  ∀ (s : State) (r : Request) (t : Transport), busy s = false → s.host = [some (.request r)] → s.transport = some t →
    ∃ n s', 1 ≤ n ∧ n ≤ 20 ∧ core.run n s = .next s' ∧ s'.host = [] ∧
      (∀ c : Claim, Claim.holds c s' ↔ c (viewAfter r t s.lastRead)) ∧ (busy s' = true → ∀ m, core.run m s' = .next s')

/-- R138, R134, R12: a fresh block and a used one, whatever their state, with the same surroundings, look the same from outside
from the acceptance of a request on, after any number of steps. -/
def Obligations.FreshAndUsedBlocksGiveTheSameResults : Prop :=
  ∀ (s t : State) (r : Request) (rest : List (Option HostAction)) (n : Nat), s.phase = .idle → t.phase = .idle →
    s.host = some (.request r) :: rest → t.host = s.host → t.transport = s.transport → t.lastRead = s.lastRead →
    t.draws = s.draws → sameOutside (core.run (n + 1) s) (core.run (n + 1) t)
end

