-- ==== Sys2Proof/Laws/State.lean ====
section
/-! SUPPORT. One lemma per field for each primitive update of the state, all true by rfl. -/
namespace Sys2Proof.Machine

/-! ## record -/

@[simp] theorem record_phase (e : Event) (s : State) : (record e s).phase = s.phase := rfl
@[simp] theorem record_op (e : Event) (s : State) : (record e s).op = s.op := rfl
@[simp] theorem record_reqEn (e : Event) (s : State) : (record e s).reqEn = s.reqEn := rfl
@[simp] theorem record_reqCode (e : Event) (s : State) : (record e s).reqCode = s.reqCode := rfl
@[simp] theorem record_reqPayload (e : Event) (s : State) : (record e s).reqPayload = s.reqPayload := rfl
@[simp] theorem record_tx (e : Event) (s : State) : (record e s).tx = s.tx := rfl
@[simp] theorem record_txIdx (e : Event) (s : State) : (record e s).txIdx = s.txIdx := rfl
@[simp] theorem record_rx (e : Event) (s : State) : (record e s).rx = s.rx := rfl
@[simp] theorem record_rxIdx (e : Event) (s : State) : (record e s).rxIdx = s.rxIdx := rfl
@[simp] theorem record_acc (e : Event) (s : State) : (record e s).acc = s.acc := rfl
@[simp] theorem record_status (e : Event) (s : State) : (record e s).status = s.status := rfl
@[simp] theorem record_resultValid (e : Event) (s : State) : (record e s).resultValid = s.resultValid := rfl
@[simp] theorem record_ppm (e : Event) (s : State) : (record e s).ppm = s.ppm := rfl
@[simp] theorem record_resp (e : Event) (s : State) : (record e s).resp = s.resp := rfl
@[simp] theorem record_transport (e : Event) (s : State) : (record e s).transport = s.transport := rfl
@[simp] theorem record_history (e : Event) (s : State) : (record e s).history = s.history ++ [e] := rfl
@[simp] theorem record_host (e : Event) (s : State) : (record e s).host = s.host := rfl
@[simp] theorem record_lastRead (e : Event) (s : State) : (record e s).lastRead = s.lastRead := rfl
@[simp] theorem record_draws (e : Event) (s : State) : (record e s).draws = s.draws := rfl

/-! ## finish -/

@[simp] theorem finish_phase (k : Kind) (s : State) : (finish k s).phase = .idle := rfl
@[simp] theorem finish_op (k : Kind) (s : State) : (finish k s).op = s.op := rfl
@[simp] theorem finish_reqEn (k : Kind) (s : State) : (finish k s).reqEn = s.reqEn := rfl
@[simp] theorem finish_reqCode (k : Kind) (s : State) : (finish k s).reqCode = s.reqCode := rfl
@[simp] theorem finish_reqPayload (k : Kind) (s : State) : (finish k s).reqPayload = s.reqPayload := rfl
@[simp] theorem finish_tx (k : Kind) (s : State) : (finish k s).tx = s.tx := rfl
@[simp] theorem finish_txIdx (k : Kind) (s : State) : (finish k s).txIdx = s.txIdx := rfl
@[simp] theorem finish_rx (k : Kind) (s : State) : (finish k s).rx = s.rx := rfl
@[simp] theorem finish_rxIdx (k : Kind) (s : State) : (finish k s).rxIdx = s.rxIdx := rfl
@[simp] theorem finish_acc (k : Kind) (s : State) : (finish k s).acc = s.acc := rfl
@[simp] theorem finish_status (k : Kind) (s : State) : (finish k s).status = k.code := rfl
@[simp] theorem finish_resultValid (k : Kind) (s : State) : (finish k s).resultValid = true := rfl
@[simp] theorem finish_ppm (k : Kind) (s : State) : (finish k s).ppm = s.ppm := rfl
@[simp] theorem finish_resp (k : Kind) (s : State) : (finish k s).resp = s.resp := rfl
@[simp] theorem finish_transport (k : Kind) (s : State) : (finish k s).transport = s.transport := rfl
@[simp] theorem finish_history (k : Kind) (s : State) : (finish k s).history = s.history ++ [.complete k] := rfl
@[simp] theorem finish_host (k : Kind) (s : State) : (finish k s).host = s.host := rfl
@[simp] theorem finish_lastRead (k : Kind) (s : State) : (finish k s).lastRead = s.lastRead := rfl
@[simp] theorem finish_draws (k : Kind) (s : State) : (finish k s).draws = s.draws := rfl

/-! ## undefinePpm -/

@[simp] theorem undefinePpm_phase (s : State) : (undefinePpm s).phase = s.phase := rfl
@[simp] theorem undefinePpm_op (s : State) : (undefinePpm s).op = s.op := rfl
@[simp] theorem undefinePpm_reqEn (s : State) : (undefinePpm s).reqEn = s.reqEn := rfl
@[simp] theorem undefinePpm_reqCode (s : State) : (undefinePpm s).reqCode = s.reqCode := rfl
@[simp] theorem undefinePpm_reqPayload (s : State) : (undefinePpm s).reqPayload = s.reqPayload := rfl
@[simp] theorem undefinePpm_tx (s : State) : (undefinePpm s).tx = s.tx := rfl
@[simp] theorem undefinePpm_txIdx (s : State) : (undefinePpm s).txIdx = s.txIdx := rfl
@[simp] theorem undefinePpm_rx (s : State) : (undefinePpm s).rx = s.rx := rfl
@[simp] theorem undefinePpm_rxIdx (s : State) : (undefinePpm s).rxIdx = s.rxIdx := rfl
@[simp] theorem undefinePpm_acc (s : State) : (undefinePpm s).acc = s.acc := rfl
@[simp] theorem undefinePpm_status (s : State) : (undefinePpm s).status = s.status := rfl
@[simp] theorem undefinePpm_resultValid (s : State) : (undefinePpm s).resultValid = s.resultValid := rfl
@[simp] theorem undefinePpm_ppm (s : State) : (undefinePpm s).ppm = Config.freePpm s.draws := rfl
@[simp] theorem undefinePpm_resp (s : State) : (undefinePpm s).resp = s.resp := rfl
@[simp] theorem undefinePpm_transport (s : State) : (undefinePpm s).transport = s.transport := rfl
@[simp] theorem undefinePpm_history (s : State) : (undefinePpm s).history = s.history := rfl
@[simp] theorem undefinePpm_host (s : State) : (undefinePpm s).host = s.host := rfl
@[simp] theorem undefinePpm_lastRead (s : State) : (undefinePpm s).lastRead = s.lastRead := rfl
@[simp] theorem undefinePpm_draws (s : State) : (undefinePpm s).draws = s.draws + 1 := rfl

/-! ## undefineResp -/

@[simp] theorem undefineResp_phase (s : State) : (undefineResp s).phase = s.phase := rfl
@[simp] theorem undefineResp_op (s : State) : (undefineResp s).op = s.op := rfl
@[simp] theorem undefineResp_reqEn (s : State) : (undefineResp s).reqEn = s.reqEn := rfl
@[simp] theorem undefineResp_reqCode (s : State) : (undefineResp s).reqCode = s.reqCode := rfl
@[simp] theorem undefineResp_reqPayload (s : State) : (undefineResp s).reqPayload = s.reqPayload := rfl
@[simp] theorem undefineResp_tx (s : State) : (undefineResp s).tx = s.tx := rfl
@[simp] theorem undefineResp_txIdx (s : State) : (undefineResp s).txIdx = s.txIdx := rfl
@[simp] theorem undefineResp_rx (s : State) : (undefineResp s).rx = s.rx := rfl
@[simp] theorem undefineResp_rxIdx (s : State) : (undefineResp s).rxIdx = s.rxIdx := rfl
@[simp] theorem undefineResp_acc (s : State) : (undefineResp s).acc = s.acc := rfl
@[simp] theorem undefineResp_status (s : State) : (undefineResp s).status = s.status := rfl
@[simp] theorem undefineResp_resultValid (s : State) : (undefineResp s).resultValid = s.resultValid := rfl
@[simp] theorem undefineResp_ppm (s : State) : (undefineResp s).ppm = s.ppm := rfl
@[simp] theorem undefineResp_resp (s : State) : (undefineResp s).resp = Config.freeResp s.draws := rfl
@[simp] theorem undefineResp_transport (s : State) : (undefineResp s).transport = s.transport := rfl
@[simp] theorem undefineResp_history (s : State) : (undefineResp s).history = s.history := rfl
@[simp] theorem undefineResp_host (s : State) : (undefineResp s).host = s.host := rfl
@[simp] theorem undefineResp_lastRead (s : State) : (undefineResp s).lastRead = s.lastRead := rfl
@[simp] theorem undefineResp_draws (s : State) : (undefineResp s).draws = s.draws + 1 := rfl

/-! ## opCk8Clr -/

@[simp] theorem opCk8Clr_phase (s : State) : (opCk8Clr s).phase = s.phase := rfl
@[simp] theorem opCk8Clr_op (s : State) : (opCk8Clr s).op = s.op := rfl
@[simp] theorem opCk8Clr_reqEn (s : State) : (opCk8Clr s).reqEn = s.reqEn := rfl
@[simp] theorem opCk8Clr_reqCode (s : State) : (opCk8Clr s).reqCode = s.reqCode := rfl
@[simp] theorem opCk8Clr_reqPayload (s : State) : (opCk8Clr s).reqPayload = s.reqPayload := rfl
@[simp] theorem opCk8Clr_tx (s : State) : (opCk8Clr s).tx = s.tx := rfl
@[simp] theorem opCk8Clr_txIdx (s : State) : (opCk8Clr s).txIdx = s.txIdx := rfl
@[simp] theorem opCk8Clr_rx (s : State) : (opCk8Clr s).rx = s.rx := rfl
@[simp] theorem opCk8Clr_rxIdx (s : State) : (opCk8Clr s).rxIdx = s.rxIdx := rfl
@[simp] theorem opCk8Clr_acc (s : State) : (opCk8Clr s).acc = ck8Clr := rfl
@[simp] theorem opCk8Clr_status (s : State) : (opCk8Clr s).status = s.status := rfl
@[simp] theorem opCk8Clr_resultValid (s : State) : (opCk8Clr s).resultValid = s.resultValid := rfl
@[simp] theorem opCk8Clr_ppm (s : State) : (opCk8Clr s).ppm = s.ppm := rfl
@[simp] theorem opCk8Clr_resp (s : State) : (opCk8Clr s).resp = s.resp := rfl
@[simp] theorem opCk8Clr_transport (s : State) : (opCk8Clr s).transport = s.transport := rfl
@[simp] theorem opCk8Clr_history (s : State) : (opCk8Clr s).history = s.history := rfl
@[simp] theorem opCk8Clr_host (s : State) : (opCk8Clr s).host = s.host := rfl
@[simp] theorem opCk8Clr_lastRead (s : State) : (opCk8Clr s).lastRead = s.lastRead := rfl
@[simp] theorem opCk8Clr_draws (s : State) : (opCk8Clr s).draws = s.draws := rfl

/-! ## opCk8Add -/

@[simp] theorem opCk8Add_phase (b : Byte) (s : State) : (opCk8Add b s).phase = s.phase := rfl
@[simp] theorem opCk8Add_op (b : Byte) (s : State) : (opCk8Add b s).op = s.op := rfl
@[simp] theorem opCk8Add_reqEn (b : Byte) (s : State) : (opCk8Add b s).reqEn = s.reqEn := rfl
@[simp] theorem opCk8Add_reqCode (b : Byte) (s : State) : (opCk8Add b s).reqCode = s.reqCode := rfl
@[simp] theorem opCk8Add_reqPayload (b : Byte) (s : State) : (opCk8Add b s).reqPayload = s.reqPayload := rfl
@[simp] theorem opCk8Add_tx (b : Byte) (s : State) : (opCk8Add b s).tx = s.tx := rfl
@[simp] theorem opCk8Add_txIdx (b : Byte) (s : State) : (opCk8Add b s).txIdx = s.txIdx := rfl
@[simp] theorem opCk8Add_rx (b : Byte) (s : State) : (opCk8Add b s).rx = s.rx := rfl
@[simp] theorem opCk8Add_rxIdx (b : Byte) (s : State) : (opCk8Add b s).rxIdx = s.rxIdx := rfl
@[simp] theorem opCk8Add_acc (b : Byte) (s : State) : (opCk8Add b s).acc = ck8Add s.acc b := rfl
@[simp] theorem opCk8Add_status (b : Byte) (s : State) : (opCk8Add b s).status = s.status := rfl
@[simp] theorem opCk8Add_resultValid (b : Byte) (s : State) : (opCk8Add b s).resultValid = s.resultValid := rfl
@[simp] theorem opCk8Add_ppm (b : Byte) (s : State) : (opCk8Add b s).ppm = s.ppm := rfl
@[simp] theorem opCk8Add_resp (b : Byte) (s : State) : (opCk8Add b s).resp = s.resp := rfl
@[simp] theorem opCk8Add_transport (b : Byte) (s : State) : (opCk8Add b s).transport = s.transport := rfl
@[simp] theorem opCk8Add_history (b : Byte) (s : State) : (opCk8Add b s).history = s.history := rfl
@[simp] theorem opCk8Add_host (b : Byte) (s : State) : (opCk8Add b s).host = s.host := rfl
@[simp] theorem opCk8Add_lastRead (b : Byte) (s : State) : (opCk8Add b s).lastRead = s.lastRead := rfl
@[simp] theorem opCk8Add_draws (b : Byte) (s : State) : (opCk8Add b s).draws = s.draws := rfl

end Sys2Proof.Machine
end

