-- ==== Sys2Proof/Laws/Checksum.lean ====
section
/-! SUPPORT. The accumulator's lemmas, and what running it over a packet leaves and reads out. -/
namespace Sys2Proof.Machine

theorem ck8Add_eq_add (acc b : Byte) : ck8Add acc b = acc + b := by
  apply BitVec.eq_of_toNat_eq
  simp [ck8Add]

theorem ck8Out_eq_neg (acc : Byte) : ck8Out acc = -acc := by
  apply BitVec.eq_of_toNat_eq
  simp [ck8Out, BitVec.toNat_neg]

theorem spanSum_eq_add (p : Packet) :
    spanSum p = p[1] + p[2] + p[3] + p[4] + p[5] + p[6] + p[7] := by
  apply BitVec.eq_of_toNat_eq
  simp [spanSum, spanTotal]

theorem ck8_eq_neg_spanSum (p : Packet) : ck8 p = -spanSum p := by
  apply BitVec.eq_of_toNat_eq
  simp [ck8, spanSum, BitVec.toNat_neg]

/-- The state after the accumulator has run over `p`: `acc` is the span's sum, and nothing else has changed. -/
theorem runCk8_eq (p : Packet) (s : State) : runCk8 p s = { s with acc := spanSum p } := by
  simp only [runCk8, spanBytes, List.foldl, opCk8Add, opCk8Clr, ck8Add_eq_add, ck8Clr, spanSum_eq_add]
  simp

/-- What the accumulator reads out after it has run over `p`. -/
theorem opCk8Out_runCk8 (p : Packet) (s : State) : opCk8Out (runCk8 p s) = ck8 p := by
  rw [runCk8_eq, opCk8Out, ck8Out_eq_neg, ck8_eq_neg_spanSum]

/-- The checksum of a command packet does not depend on its checksum byte. -/
@[simp] theorem ck8_commandPacket (code : Byte) (p : Payload) (k : Byte) :
    ck8 (commandPacket code p k) = ck8 (commandPacket code p 0) := rfl

@[simp] theorem spanSum_commandPacket (code : Byte) (p : Payload) (k : Byte) :
    spanSum (commandPacket code p k) = spanSum (commandPacket code p 0) := rfl

/-- The checksum of a response packet does not depend on its checksum byte. -/
@[simp] theorem ck8_responsePacket (echo : Byte) (q : Vector Byte 6) (k : Byte) :
    ck8 (responsePacket echo q k) = ck8 (responsePacket echo q 0) := rfl

/-- A packet is its nine bytes. -/
theorem packet_eta (p : Packet) : p = #v[p[0], p[1], p[2], p[3], p[4], p[5], p[6], p[7], p[8]] := by
  ext i hi
  have : i = 0 ∨ i = 1 ∨ i = 2 ∨ i = 3 ∨ i = 4 ∨ i = 5 ∨ i = 6 ∨ i = 7 ∨ i = 8 := by omega
  rcases this with rfl | rfl | rfl | rfl | rfl | rfl | rfl | rfl | rfl <;> rfl

/-- A payload is its five bytes. -/
theorem payload_eta (p : Payload) : p = #v[p[0], p[1], p[2], p[3], p[4]] := by
  ext i hi
  have : i = 0 ∨ i = 1 ∨ i = 2 ∨ i = 3 ∨ i = 4 := by omega
  rcases this with rfl | rfl | rfl | rfl | rfl <;> rfl

end Sys2Proof.Machine
end

