-- ==== Sys2Proof/Laws/Ops.lean ====
section
/-! SUPPORT. What each shared operation can do, said once. -/
namespace Sys2Proof.Machine

/-- Framing leaves the whole packet in `tx`, the span's sum in `acc`, and the block sending from offset 0. -/
theorem frameTx_eq (code : Byte) (p : Payload) (s : State) :
    frameTx code p s =
      { s with tx := frame code p, acc := spanSum (commandPacket code p 0), txIdx := 0, phase := .sending } := by
  simp only [frameTx, opCk8Out_runCk8, frame]
  rw [runCk8_eq]

theorem finishNoValue_eq (k : Kind) (s : State) :
    finishNoValue k s =
      { s with status := k.code, resultValid := true, phase := .idle, history := s.history ++ [.complete k],
               ppm := Config.freePpm s.draws, resp := Config.freeResp (s.draws + 1), draws := s.draws + 1 + 1 } := rfl

theorem finishPpm_eq (p : Packet) (s : State) :
    finishPpm p s =
      { s with status := 0, resultValid := true, phase := .idle, history := s.history ++ [.complete .none],
               ppm := decodePpm p, resp := Config.freeResp s.draws, draws := s.draws + 1 } := rfl

theorem finishResp_eq (p : Packet) (s : State) :
    finishResp p s =
      { s with status := 0, resultValid := true, phase := .idle, history := s.history ++ [.complete .none],
               resp := p, ppm := Config.freePpm s.draws, draws := s.draws + 1 } := rfl

@[simp] theorem busy_eq_true (s : State) : busy s = true ↔ s.phase ≠ .idle := by
  cases h : s.phase <;> simp [busy, h]

@[simp] theorem busy_eq_false (s : State) : busy s = false ↔ s.phase = .idle := by
  cases h : s.phase <;> simp [busy, h]

/-- An idle, bound block accepts. -/
theorem acceptWhenIdle_of_idle {act : State → State} {s : State} (hp : s.phase = .idle) (ht : s.transport ≠ none) :
    acceptWhenIdle act s = .next { act s with resultValid := false, history := [] } := by
  obtain ⟨t, ht⟩ := Option.ne_none_iff_exists'.mp ht
  simp [acceptWhenIdle, busy, hp, ht]

/-- What acceptance needs and does. -/
theorem acceptWhenIdle_next {act : State → State} {s s' : State} (h : acceptWhenIdle act s = .next s') :
    s.phase = .idle ∧ s.transport ≠ none ∧ s' = { act s with resultValid := false, history := [] } := by
  unfold acceptWhenIdle at h
  split at h
  · cases h
  · split at h
    · cases h
    · rename_i hb _ t ht
      exact ⟨by simpa using hb, by simp [ht], by simpa using h.symm⟩

/-- What a transmission step needs and does: it waits, or one call is answered. -/
theorem transmit_next {pkt : Packet} {s s' : State} (h : transmit pkt s = .next s') :
    s.phase = .sending ∧ ∃ hi : s.txIdx < 9, ∃ t, s.transport = some t ∧
      ((t.sink = [] ∧ s' = s) ∨
       ∃ a rest, t.sink = a :: rest ∧ s' = onSinkAnswer pkt[s.txIdx] a { s with transport := some { t with sink := rest } }) := by
  unfold transmit at h
  split at h
  · rename_i hc
    refine ⟨hc.1, hc.2, ?_⟩
    split at h
    · cases h
    · rename_i t ht
      refine ⟨t, ht, ?_⟩
      split at h
      · rename_i hs
        exact .inl ⟨hs, by simpa using h.symm⟩
      · rename_i a rest hs
        exact .inr ⟨a, rest, hs, by simpa using h.symm⟩
  · cases h

/-- A transmission step whose call is answered. -/
theorem transmit_of_answer {pkt : Packet} {s : State} {t : Transport} {a : SinkAnswer} {rest : List SinkAnswer}
    (hp : s.phase = .sending) (hi : s.txIdx < 9) (ht : s.transport = some t) (ha : t.sink = a :: rest) :
    transmit pkt s = .next (onSinkAnswer pkt[s.txIdx] a { s with transport := some { t with sink := rest } }) := by
  unfold transmit
  rw [dif_pos ⟨hp, hi⟩]
  simp [ht, ha]

/-- What a reception step needs and does: it waits, or one call is answered. -/
theorem receive_next {s s' : State} (h : receive s = .next s') :
    s.phase = .receiving ∧ ∃ hi : s.rxIdx < 9, ∃ t, s.transport = some t ∧
      ((t.source = [] ∧ s' = s) ∨
       ∃ a rest, t.source = a :: rest ∧ s' = onSourceAnswer a { s with transport := some { t with source := rest } } hi) := by
  unfold receive at h
  split at h
  · rename_i hc
    refine ⟨hc.1, hc.2, ?_⟩
    split at h
    · cases h
    · rename_i t ht
      refine ⟨t, ht, ?_⟩
      split at h
      · rename_i hs
        exact .inl ⟨hs, by simpa using h.symm⟩
      · rename_i a rest hs
        exact .inr ⟨a, rest, hs, by simpa using h.symm⟩
  · cases h

/-- A reception step whose call is answered. -/
theorem receive_of_answer {s : State} {t : Transport} {a : SourceAnswer} {rest : List SourceAnswer}
    (hp : s.phase = .receiving) (hi : s.rxIdx < 9) (ht : s.transport = some t) (ha : t.source = a :: rest) :
    receive s = .next (onSourceAnswer a { s with transport := some { t with source := rest } } hi) := by
  unfold receive
  rw [dif_pos ⟨hp, hi⟩]
  simp [ht, ha]

/-- A validation step: the accumulator runs over the packet, and the packet is judged. -/
theorem validate_eq {pkt : Packet} {s : State} (hp : s.phase = .validating) :
    validate pkt s = .next (judge pkt (ck8 pkt) { s with acc := spanSum pkt }) := by
  rw [validate, if_pos hp]
  simp only [opCk8Out_runCk8]
  rw [runCk8_eq]

theorem validate_next {pkt : Packet} {s s' : State} (h : validate pkt s = .next s') :
    s.phase = .validating ∧ s' = judge pkt (ck8 pkt) { s with acc := spanSum pkt } := by
  by_cases hp : s.phase = .validating
  · rw [validate_eq hp] at h
    exact ⟨hp, by simpa using h.symm⟩
  · simp [validate, hp] at h

/-- The four ways a judgement ends (R119, 5 to 7). -/
theorem judge_cases (pkt : Packet) (ck : Byte) (s : State) :
    (pkt[8] ≠ ck ∧ judge pkt ck s = finishNoValue .badChecksum s) ∨
    (pkt[8] = ck ∧ s.op = .readCo2 ∧ pkt[1] ≠ codeReadCo2 ∧ judge pkt ck s = finishNoValue .invalidResponseCommand s) ∨
    (pkt[8] = ck ∧ s.op = .readCo2 ∧ pkt[1] = codeReadCo2 ∧ judge pkt ck s = finishPpm pkt s) ∨
    (pkt[8] = ck ∧ s.op ≠ .readCo2 ∧ judge pkt ck s = finishResp pkt s) := by
  unfold judge
  split
  · exact .inl ⟨‹_›, rfl⟩
  · rename_i h8
    have h8 : pkt[8] = ck := by simpa using h8
    split
    · rename_i ho
      split
      · exact .inr (.inl ⟨h8, ho, ‹_›, rfl⟩)
      · rename_i h1
        exact .inr (.inr (.inl ⟨h8, ho, by simpa using h1, rfl⟩))
    · exact .inr (.inr (.inr ⟨h8, ‹_›, rfl⟩))

/-- A reset: the block's own state but `status` is as State.reset has it; `status` and the surroundings stay, but for the
transport call in progress. -/
theorem hostReset_eq (s : State) :
    ∃ tr d, hostReset s = { State.reset with status := s.status, transport := tr, history := s.history, host := s.host,
                                             lastRead := s.lastRead, draws := d } ∧
      (tr = s.transport ∨
       (s.phase = .sending ∧ tr = s.transport.map (fun t => { t with sink := t.sink.tail })) ∨
       (s.phase = .receiving ∧ tr = s.transport.map (fun t => { t with source := t.source.tail }))) := by
  refine ⟨(hostReset s).transport, (hostReset s).draws, ?_, ?_⟩
  · unfold hostReset abandonCall
    split <;> rfl
  · unfold hostReset abandonCall
    cases hp : s.phase <;> cases hm : Config.freeMoved s.draws <;> cases s.transport <;> simp

end Sys2Proof.Machine
end

