-- ==== Sys2Proof/Laws/Step.lean ====
section
/-! SUPPORT. Decoding a buffer gives an instruction of those very bytes, so a step of the block follows its phase's rule; and
what a step can do, said once. -/
namespace Sys2Proof.Machine

theorem vector4_eta (q : Vector Byte 4) : q = #v[q[0], q[1], q[2], q[3]] := by
  ext i hi
  have : i = 0 ∨ i = 1 ∨ i = 2 ∨ i = 3 := by omega
  rcases this with rfl | rfl | rfl | rfl <;> rfl

/-- The command a buffer decodes to is encoded as that buffer: no bit is dropped. -/
theorem encode_of_decodeCommand {p : Packet} {i : Instr} (h : decodeCommand p = .ok i) : encode i = .command p := by
  unfold decodeCommand at h
  split at h
  · cases h
  rename_i h0
  have h0 : p[0] = 0xFF := by simpa using h0
  split at h
  · cases h
  rename_i h1
  have h1 : p[1] = 0x01 := by simpa using h1
  split at h
  · rename_i hp
    cases h
    subst hp
    rfl
  split at h
  · rename_i hp
    obtain ⟨h2, h3, h4, h5, h6, h7⟩ := hp
    cases h
    conv_rhs => rw [packet_eta p, h0, h1, h2, h3, h4, h5, h6, h7]
    rfl
  split at h
  · rename_i hp
    obtain ⟨h2, h3, h4, h5, h6, h7⟩ := hp
    cases h
    conv_rhs => rw [packet_eta p, h0, h1, h2, h3, h4, h5, h6, h7]
    rfl
  · cases h
    conv_rhs => rw [packet_eta p, h0, h1]
    rfl

/-- The response a buffer decodes to is encoded as that buffer. -/
theorem encode_of_decodeResponse {p : Packet} {i : Instr} (h : decodeResponse p = .ok i) : encode i = .response p := by
  unfold decodeResponse at h
  split at h
  · cases h
  rename_i h0
  have h0 : p[0] = 0xFF := by simpa using h0
  split at h
  · rename_i h1
    cases h
    conv_rhs => rw [packet_eta p, h0, h1]
    rfl
  · cases h
    conv_rhs => rw [packet_eta p, h0]
    rfl

/-- An instruction encoded as a command packet is a transmission step of that packet. -/
theorem exec_of_command {i : Instr} {p : Packet} (h : encode i = .command p) (s : State) : exec i s = transmit p s := by
  cases i <;> simp [encode] at h <;> subst h <;> rfl

/-- An instruction encoded as a response packet is a validation step of that packet. -/
theorem exec_of_response {i : Instr} {p : Packet} (h : encode i = .response p) (s : State) : exec i s = validate p s := by
  cases i <;> simp [encode] at h <;> subst h <;> rfl

/-- What the block does in a step of its own. -/
def blockStep (s : State) : Result :=
  match s.phase with
  | .idle => .next s
  | .sending => transmit s.tx s
  | .receiving => receive s
  | .validating => validate s.rx s

/-- Running what the block fetches is the block's own step. -/
theorem run_fetchBlock (s : State) :
    (match fetchBlock s with
      | .instr i s' => exec i s'
      | .action a s' => actionStep a s'
      | .internal s' => internalStep s') = blockStep s := by
  unfold fetchBlock blockStep
  cases hp : s.phase
  · simp [internalStep, hp]
  · simp only [decode]
    cases hd : decodeCommand s.tx
    · simp [internalStep, hp]
    · simp [exec_of_command (encode_of_decodeCommand hd)]
  · simp [internalStep, hp]
  · simp only [decode]
    cases hd : decodeResponse s.rx
    · simp [internalStep, hp]
    · simp [exec_of_response (encode_of_decodeResponse hd)]

theorem step_of_host_nil {s : State} (h : s.host = []) : step s = blockStep s := by
  unfold step fetch
  rw [h]
  exact run_fetchBlock s

theorem step_of_host_none {s : State} {rest : List (Option HostAction)} (h : s.host = none :: rest) :
    step s = blockStep { s with host := rest } := by
  unfold step fetch
  rw [h]
  exact run_fetchBlock { s with host := rest }

/-- Where the host does nothing, a step is the block's own. -/
theorem step_of_hostSilent {s : State} (h : hostSilent s) : step s = blockStep { s with host := s.host.tail } := by
  obtain h | ⟨rest, h⟩ := h
  · rw [step_of_host_nil h, h, List.tail_nil]
    conv_lhs => rw [show s = { s with host := [] } by rw [← h]]
  · rw [step_of_host_none h, h, List.tail_cons]

theorem step_of_host_request {s : State} {r : Request} {rest : List (Option HostAction)}
    (h : s.host = some (.request r) :: rest) : step s = exec (decodeRequest r) { s with host := rest } := by
  unfold step fetch
  rw [h]

theorem step_of_host_action {s : State} {a : HostAction} {rest : List (Option HostAction)}
    (ha : ∀ r, a ≠ .request r) (h : s.host = some a :: rest) : step s = actionStep a { s with host := rest } := by
  unfold step fetch
  rw [h]
  cases a <;> first | rfl | exact absurd rfl (ha _)

/-- The coming step, by what the host does at it. -/
theorem step_cases (s : State) :
    (s.host = [] ∧ step s = blockStep s) ∨
    (∃ rest, s.host = none :: rest ∧ step s = blockStep { s with host := rest }) ∨
    (∃ r rest, s.host = some (.request r) :: rest ∧ step s = exec (decodeRequest r) { s with host := rest }) ∨
    (∃ a rest, (∀ r, a ≠ .request r) ∧ s.host = some a :: rest ∧ step s = actionStep a { s with host := rest }) := by
  cases h : s.host with
  | nil => exact .inl ⟨rfl, step_of_host_nil h⟩
  | cons x rest =>
    cases x with
    | none => exact .inr (.inl ⟨rest, rfl, step_of_host_none h⟩)
    | some a =>
      cases a
      case request r => exact .inr (.inr (.inl ⟨r, rest, rfl, step_of_host_request h⟩))
      all_goals
        refine .inr (.inr (.inr ⟨_, rest, ?_, rfl, step_of_host_action ?_ h⟩)) <;> (intro r hr; cases hr)

/-- A step of the block's own that goes on: it waits, or one transport call is answered, or the response is judged. -/
theorem blockStep_next {s s' : State} (h : blockStep s = .next s') :
    s' = s ∨
    (s.phase = .sending ∧ ∃ hi : s.txIdx < 9, ∃ t a rest, s.transport = some t ∧ t.sink = a :: rest ∧
      s' = onSinkAnswer s.tx[s.txIdx] a { s with transport := some { t with sink := rest } }) ∨
    (s.phase = .receiving ∧ ∃ hi : s.rxIdx < 9, ∃ t a rest, s.transport = some t ∧ t.source = a :: rest ∧
      s' = onSourceAnswer a { s with transport := some { t with source := rest } } hi) ∨
    (s.phase = .validating ∧ s' = judge s.rx (ck8 s.rx) { s with acc := spanSum s.rx }) := by
  unfold blockStep at h
  split at h
  · exact .inl (by simpa using h.symm)
  · obtain ⟨hp, hi, t, ht, ⟨_, h⟩ | ⟨a, rest, ha, h⟩⟩ := transmit_next h
    · exact .inl h
    · exact .inr (.inl ⟨hp, hi, t, a, rest, ht, ha, h⟩)
  · obtain ⟨hp, hi, t, ht, ⟨_, h⟩ | ⟨a, rest, ha, h⟩⟩ := receive_next h
    · exact .inl h
    · exact .inr (.inr (.inl ⟨hp, hi, t, a, rest, ht, ha, h⟩))
  · obtain ⟨hp, h⟩ := validate_next h
    exact .inr (.inr (.inr ⟨hp, h⟩))

theorem blockStep_of_sending {s : State} (hp : s.phase = .sending) : blockStep s = transmit s.tx s := by
  unfold blockStep
  rw [hp]

theorem blockStep_of_receiving {s : State} (hp : s.phase = .receiving) : blockStep s = receive s := by
  unfold blockStep
  rw [hp]

theorem blockStep_of_validating {s : State} (hp : s.phase = .validating) : blockStep s = validate s.rx s := by
  unfold blockStep
  rw [hp]

/-- The step of a sending block whose next sink call is answered. -/
theorem step_of_sink_answer {s : State} {t : Transport} {a : SinkAnswer} {rest : List SinkAnswer} (hh : s.host = [])
    (hp : s.phase = .sending) (hi : s.txIdx < 9) (ht : s.transport = some t) (ha : t.sink = a :: rest) :
    step s = .next (onSinkAnswer s.tx[s.txIdx] a { s with transport := some { t with sink := rest } }) := by
  rw [step_of_host_nil hh, blockStep_of_sending hp, transmit_of_answer hp hi ht ha]

/-- The step of a receiving block whose next source call is answered. -/
theorem step_of_source_answer {s : State} {t : Transport} {a : SourceAnswer} {rest : List SourceAnswer} (hh : s.host = [])
    (hp : s.phase = .receiving) (hi : s.rxIdx < 9) (ht : s.transport = some t) (ha : t.source = a :: rest) :
    step s = .next (onSourceAnswer a { s with transport := some { t with source := rest } } hi) := by
  rw [step_of_host_nil hh, blockStep_of_receiving hp, receive_of_answer hp hi ht ha]

/-- A sending block whose next sink call is not answered waits (R132). -/
theorem step_waits_for_sink {s : State} {t : Transport} (hh : s.host = []) (hp : s.phase = .sending) (hi : s.txIdx < 9)
    (ht : s.transport = some t) (ha : t.sink = []) : step s = .next s := by
  rw [step_of_host_nil hh, blockStep_of_sending hp, transmit, dif_pos ⟨hp, hi⟩]
  simp only [ht, ha]

/-- A receiving block whose next source call is not answered waits (R132). -/
theorem step_waits_for_source {s : State} {t : Transport} (hh : s.host = []) (hp : s.phase = .receiving) (hi : s.rxIdx < 9)
    (ht : s.transport = some t) (ha : t.source = []) : step s = .next s := by
  rw [step_of_host_nil hh, blockStep_of_receiving hp, receive, dif_pos ⟨hp, hi⟩]
  simp only [ht, ha]

/-- An answered sink call: the four ways it ends (R83, R86, R87). -/
theorem onSinkAnswer_cases (b : Byte) (a : SinkAnswer) (s : State) :
    (a = .fail ∧ onSinkAnswer b a s = finishNoValue .writeFailure (record (.sink b .fail) s)) ∨
    (a = .ok ∧ s.txIdx + 1 ≠ 9 ∧ onSinkAnswer b a s = { record (.sink b .ok) s with txIdx := s.txIdx + 1 }) ∨
    (a = .ok ∧ s.txIdx + 1 = 9 ∧ s.op = .readCo2 ∧
      onSinkAnswer b a s = { record (.sink b .ok) s with txIdx := 9, rxIdx := 0, phase := .receiving }) ∨
    (a = .ok ∧ s.txIdx + 1 = 9 ∧ s.op ≠ .readCo2 ∧
      onSinkAnswer b a s = finishNoValue .none { record (.sink b .ok) s with txIdx := 9 }) := by
  cases a with
  | fail => exact .inl ⟨rfl, rfl⟩
  | ok =>
    by_cases h9 : s.txIdx + 1 = 9
    · by_cases ho : s.op = .readCo2
      · exact .inr (.inr (.inl ⟨rfl, h9, ho, by simp [onSinkAnswer, afterLastSink, h9, ho]⟩))
      · exact .inr (.inr (.inr ⟨rfl, h9, ho, by simp [onSinkAnswer, afterLastSink, h9, ho]⟩))
    · exact .inr (.inl ⟨rfl, h9, by simp [onSinkAnswer, h9]⟩)

/-- An answered source call: the four ways it ends (R90, R92, R98). -/
theorem onSourceAnswer_cases (a : SourceAnswer) (s : State) (h : s.rxIdx < 9) :
    (a = .fail ∧ onSourceAnswer a s h = finishNoValue .readFailure (record (.source .fail) s)) ∨
    (∃ b, a = .ok b ∧ s.rxIdx = 0 ∧ b ≠ sentinel ∧
      onSourceAnswer a s h = finishNoValue .invalidStartByte (record (.source (.ok b)) { s with rx := s.rx.set s.rxIdx b h })) ∨
    (∃ b, a = .ok b ∧ (s.rxIdx = 0 → b = sentinel) ∧ s.rxIdx + 1 = 9 ∧
      onSourceAnswer a s h =
        { record (.source (.ok b)) { s with rx := s.rx.set s.rxIdx b h } with rxIdx := s.rxIdx + 1, phase := .validating }) ∨
    (∃ b, a = .ok b ∧ (s.rxIdx = 0 → b = sentinel) ∧ s.rxIdx + 1 ≠ 9 ∧
      onSourceAnswer a s h =
        { record (.source (.ok b)) { s with rx := s.rx.set s.rxIdx b h } with rxIdx := s.rxIdx + 1 }) := by
  cases a with
  | fail => exact .inl ⟨rfl, rfl⟩
  | ok b =>
    by_cases hs : s.rxIdx = 0 ∧ b ≠ sentinel
    · exact .inr (.inl ⟨b, rfl, hs.1, hs.2, by simp only [onSourceAnswer]; rw [if_pos hs]⟩)
    · have hb : s.rxIdx = 0 → b = sentinel := fun h0 => by
        by_contra hne
        exact hs ⟨h0, hne⟩
      by_cases h9 : s.rxIdx + 1 = 9
      · exact .inr (.inr (.inl ⟨b, rfl, hb, h9, by simp only [onSourceAnswer]; rw [if_neg hs, if_pos h9]⟩))
      · exact .inr (.inr (.inr ⟨b, rfl, hb, h9, by simp only [onSourceAnswer]; rw [if_neg hs, if_neg h9]⟩))

/-- A request accepted: one of the four acceptance steps. -/
theorem exec_request_next {r : Request} {s s' : State} (h : exec (decodeRequest r) s = .next s') :
    s.phase = .idle ∧ s.transport ≠ none ∧
    ((r.op = 0 ∧ s' = { s with op := .readCo2, tx := frame codeReadCo2 payloadReadCo2,
                               acc := spanSum (commandPacket codeReadCo2 payloadReadCo2 0), txIdx := 0, phase := .sending,
                               resultValid := false, history := [] }) ∨
     (r.op = 1 ∧ s' = { s with op := .setAbc, reqEn := r.en, tx := frame codeSetAbc (payloadSetAbc r.en),
                               acc := spanSum (commandPacket codeSetAbc (payloadSetAbc r.en) 0), txIdx := 0,
                               phase := .sending, resultValid := false, history := [] }) ∨
     (r.op = 2 ∧ s' = { s with op := .sendCmd, reqCode := r.code, reqPayload := r.payload, tx := frame r.code r.payload,
                               acc := spanSum (commandPacket r.code r.payload 0), txIdx := 0, phase := .sending,
                               resultValid := false, history := [] }) ∨
     (r.op = 3 ∧ s' = { s with op := .recvResp, rxIdx := 0, phase := .receiving, resultValid := false, history := [] })) := by
  have hop : r.op = 0 ∨ r.op = 1 ∨ r.op = 2 ∨ r.op = 3 := (by decide : ∀ o : BitVec 2, o = 0 ∨ o = 1 ∨ o = 2 ∨ o = 3) r.op
  rcases hop with ho | ho | ho | ho <;> simp [decodeRequest, ho, exec] at h
  · obtain ⟨hp, ht, rfl⟩ := acceptWhenIdle_next h
    exact ⟨hp, ht, .inl ⟨ho, by rw [frameTx_eq]⟩⟩
  · obtain ⟨hp, ht, rfl⟩ := acceptWhenIdle_next h
    exact ⟨hp, ht, .inr (.inl ⟨ho, by rw [frameTx_eq]⟩)⟩
  · obtain ⟨hp, ht, rfl⟩ := acceptWhenIdle_next h
    exact ⟨hp, ht, .inr (.inr (.inl ⟨ho, by rw [frameTx_eq]⟩))⟩
  · obtain ⟨hp, ht, rfl⟩ := acceptWhenIdle_next h
    exact ⟨hp, ht, .inr (.inr (.inr ⟨ho, rfl⟩))⟩

/-- A host action other than a request that goes on: a reset, a binding while idle, or a read that leaves the block as it is. -/
theorem actionStep_next {a : HostAction} {s s' : State} (h : actionStep a s = .next s') :
    (a = .reset ∧ s' = hostReset s) ∨
    (∃ t, a = .bind t ∧ s.phase = .idle ∧ s' = { s with transport := some t }) ∨
    (∃ v, s' = { s with lastRead := some v }) := by
  cases a with
  | request r => cases h
  | bind t =>
    simp only [actionStep, hostBind] at h
    split at h
    · cases h
    · rename_i hb
      exact .inr (.inl ⟨t, rfl, by simpa using hb, by simpa using h.symm⟩)
  | reset => exact .inl ⟨rfl, by simpa [actionStep] using h.symm⟩
  | readBusy => exact .inr (.inr ⟨_, by simpa [actionStep, hostRead] using h.symm⟩)
  | readResultValid => exact .inr (.inr ⟨_, by simpa [actionStep, hostRead] using h.symm⟩)
  | readStatus =>
    simp only [actionStep, hostRead] at h
    split at h
    · exact .inr (.inr ⟨_, by simpa using h.symm⟩)
    · cases h
  | readPpm =>
    simp only [actionStep, hostRead] at h
    split at h
    · exact .inr (.inr ⟨_, by simpa using h.symm⟩)
    · cases h
  | readResp =>
    simp only [actionStep, hostRead] at h
    split at h
    · exact .inr (.inr ⟨_, by simpa using h.symm⟩)
    · cases h

/-! ## Runs -/

theorem run_zero (s : State) : core.run 0 s = .next s := rfl

theorem run_succ_of_next {s s' : State} (h : step s = .next s') (n : Nat) : core.run (n + 1) s = core.run n s' := by
  simp only [Host.Core.run]
  rw [show core.step s = .next s' from h]

theorem run_succ_of_fault {s : State} {f : Fault} (h : step s = .fault f) (n : Nat) : core.run (n + 1) s = .fault f := by
  simp only [Host.Core.run]
  rw [show core.step s = .fault f from h]

theorem run_succ_of_refused {s : State} {f : Refusal} (h : step s = .refused f) (n : Nat) :
    core.run (n + 1) s = .refused f := by
  simp only [Host.Core.run]
  rw [show core.step s = .refused f from h]

/-- A run is cut in two at any point it reaches. -/
theorem run_add {s s' : State} {m : Nat} (h : core.run m s = .next s') (n : Nat) : core.run (m + n) s = core.run n s' := by
  induction m generalizing s with
  | zero =>
    cases h
    rw [Nat.zero_add]
  | succ m ih =>
    rw [Nat.add_right_comm]
    cases hs : step s with
    | next u =>
      rw [run_succ_of_next hs] at h ⊢
      exact ih h
    | fault f =>
      rw [run_succ_of_fault hs] at h
      cases h
    | refused f =>
      rw [run_succ_of_refused hs] at h
      cases h

/-- A state that steps to itself stays for ever. -/
theorem run_of_step_self {s : State} (h : step s = .next s) (n : Nat) : core.run n s = .next s := by
  induction n with
  | zero => rfl
  | succ n ih => rw [run_succ_of_next h, ih]

end Sys2Proof.Machine
end

