-- ==== Sys2Proof/Laws/Histories.lean ====
section
/-! SUPPORT. The lemmas of Safety's definitions: histories grow by one byte, and the invariant does not look at the host. -/
namespace Sys2Proof.Machine

theorem sinkEvents_zero (p : Packet) : sinkEvents p 0 = [] := by
  simp [sinkEvents]

theorem sourceEvents_zero (p : Packet) : sourceEvents p 0 = [] := by
  simp [sourceEvents]

theorem sinkEvents_succ (p : Packet) (n : Nat) (h : n < 9) :
    sinkEvents p (n + 1) = sinkEvents p n ++ [.sink p[n] .ok] := by
  unfold sinkEvents
  rw [List.take_add_one, List.map_append]
  simp [h]

theorem sourceEvents_succ (p : Packet) (n : Nat) (h : n < 9) :
    sourceEvents p (n + 1) = sourceEvents p n ++ [.source (.ok p[n])] := by
  unfold sourceEvents
  rw [List.take_add_one, List.map_append]
  simp [h]

/-- The bytes already received are not changed by the next one. -/
theorem sourceEvents_set (p : Packet) (n : Nat) (h : n < 9) (b : Byte) :
    sourceEvents (p.set n b) n = sourceEvents p n := by
  unfold sourceEvents
  rw [Vector.toList_set, List.take_set_of_le (Nat.le_refl n)]

theorem source_not_mem_sinkEvents (p : Packet) (n : Nat) (a : SourceAnswer) : Event.source a ∉ sinkEvents p n := by
  intro h
  obtain ⟨b, _, hb⟩ := List.mem_map.mp h
  cases hb

theorem sink_not_mem_sourceEvents (p : Packet) (n : Nat) (b : Byte) (a : SinkAnswer) :
    Event.sink b a ∉ sourceEvents p n := by
  intro h
  obtain ⟨c, _, hc⟩ := List.mem_map.mp h
  cases hc

theorem StateInv_host {s : State} (h : StateInv s) (l : List (Option HostAction)) : StateInv { s with host := l } :=
  ⟨h.txBound, h.rxBound, h.busyBound, h.busyNoResult, h.sending, h.receiving, h.validating, h.completed⟩

end Sys2Proof.Machine
end

