-- ==== Sys2Proof/Laws/PerInstr.lean ====
section
/-! SUPPORT. One law per constructor of Instr: the word of an instruction fits its format. -/
namespace Sys2Proof.Laws

theorem packetToNat_lt (p : Packet) : packetToNat p < 2 ^ 72 := by
  have h0 := p[0].isLt
  have h1 := p[1].isLt
  have h2 := p[2].isLt
  have h3 := p[3].isLt
  have h4 := p[4].isLt
  have h5 := p[5].isLt
  have h6 := p[6].isLt
  have h7 := p[7].isLt
  have h8 := p[8].isLt
  unfold packetToNat
  omega

theorem requestToNat_lt (r : Request) : requestToNat r < 2 ^ 51 := by
  have ho := r.op.isLt
  have he : r.en.toNat ≤ 1 := Bool.toNat_le r.en
  have hc := r.code.isLt
  have h0 := r.payload[0].isLt
  have h1 := r.payload[1].isLt
  have h2 := r.payload[2].isLt
  have h3 := r.payload[3].isLt
  have h4 := r.payload[4].isLt
  unfold requestToNat
  omega

/-- The word of an instruction fits the width of its format (R47, R53; log 11). -/
def EncodingFits.Statement (i : Instr) : Prop :=
  encodeWord i < 2 ^ i.format.width

theorem EncodingFits.readCo2 : EncodingFits.Statement .readCo2 := requestToNat_lt _
theorem EncodingFits.setAbc (en : Bool) : EncodingFits.Statement (.setAbc en) := requestToNat_lt _
theorem EncodingFits.sendCmd (code : Byte) (p : Payload) : EncodingFits.Statement (.sendCmd code p) := requestToNat_lt _
theorem EncodingFits.recvResp : EncodingFits.Statement .recvResp := requestToNat_lt _
theorem EncodingFits.cmdReadCo2 : EncodingFits.Statement .cmdReadCo2 := packetToNat_lt _
theorem EncodingFits.cmdSetAbc (en : Bool) (k : Byte) : EncodingFits.Statement (.cmdSetAbc en k) := packetToNat_lt _
theorem EncodingFits.cmdFrame (code : Byte) (p : Payload) (k : Byte) : EncodingFits.Statement (.cmdFrame code p k) :=
  packetToNat_lt _
theorem EncodingFits.rspReadCo2 (h l : Byte) (q : Vector Byte 4) (k : Byte) : EncodingFits.Statement (.rspReadCo2 h l q k) :=
  packetToNat_lt _
theorem EncodingFits.rspFrame (echo : Byte) (q : Vector Byte 6) (k : Byte) : EncodingFits.Statement (.rspFrame echo q k) :=
  packetToNat_lt _

end Sys2Proof.Laws
end

