-- ==== Sys2Proof/Tests/Slice0.lean ====
section
/-! SUPPORT. The model's own tests: ill-formed terms refused, words written out from the spec decoded, one step of each
instruction on the spec's own vectors (95_test_vectors.md), and a witness for the hypotheses of each statement. -/
namespace Sys2Proof.Tests
open Sys2Proof Sys2Proof.Machine

/-! ## Helpers -/

/-- A field of the next state. -/
def fieldOf {α : Type} (f : State → α) (r : Result) : Option α :=
  match r with
  | .next s => some (f s)
  | .fault _ => none
  | .refused _ => none

/-- An idle block, bound to a transport with these answers. -/
def idleWith (sink : List SinkAnswer) (source : List SourceAnswer) : State :=
  { State.reset with transport := some { sink := sink, source := source } }

/-- A block sending `p` for `o`, at byte `n`. -/
def sendingAt (o : Op) (p : Packet) (n : Nat) (sink : List SinkAnswer) : State :=
  { State.reset with phase := .sending, op := o, tx := p, txIdx := n, history := sinkEvents p n,
                     transport := some { sink := sink, source := [] } }

/-- A block receiving for `o`, with the first `n` bytes of `p` in. -/
def receivingAt (o : Op) (p : Packet) (n : Nat) (source : List SourceAnswer) : State :=
  { State.reset with phase := .receiving, op := o, rx := p, rxIdx := n, history := sourceEvents p n,
                     transport := some { sink := [], source := source } }

/-- A block that has received `p` whole for `o`. -/
def validatingOf (o : Op) (p : Packet) : State :=
  { State.reset with phase := .validating, op := o, rx := p, rxIdx := 9, history := sourceEvents p 9,
                     transport := some { sink := [], source := [] } }

/-- The packet READ_CO2 sends (R68). -/
def pktRead : Packet := #v[0xFF, 0x01, 0x86, 0, 0, 0, 0, 0, 0x79]

/-- The response of 95_test_vectors.md L1-2: 900 ppm. -/
def pkt900 : Packet := #v[0xFF, 0x86, 0x03, 0x84, 0, 0, 0, 0, 0xF3]

/-! ## Well-formedness: an ill-formed term for each check -/

theorem test_wf_cmdSetAbc_checksum : (Instr.cmdSetAbc true 0xE7).wf = false := by decide
theorem test_wf_cmdFrame_checksum : (Instr.cmdFrame 0x99 #v[0, 0, 0, 0x13, 0x88] 0xCA).wf = false := by decide
theorem test_wf_cmdFrame_is_readCo2 : (Instr.cmdFrame 0x86 #v[0, 0, 0, 0, 0] 0x79).wf = false := by decide
theorem test_wf_cmdFrame_is_setAbc_on : (Instr.cmdFrame 0x79 #v[0xA0, 0, 0, 0, 0] 0xE6).wf = false := by decide
theorem test_wf_cmdFrame_is_setAbc_off : (Instr.cmdFrame 0x79 #v[0, 0, 0, 0, 0] 0x86).wf = false := by decide
theorem test_wf_rspReadCo2_checksum : (Instr.rspReadCo2 0x03 0x84 #v[0, 0, 0, 0] 0xF4).wf = false := by decide
theorem test_wf_rspFrame_checksum : (Instr.rspFrame 0x87 #v[0x03, 0x84, 0, 0, 0, 0] 0xF3).wf = false := by decide
theorem test_wf_rspFrame_is_readCo2 : (Instr.rspFrame 0x86 #v[0x03, 0x84, 0, 0, 0, 0] 0xF3).wf = false := by decide
theorem test_wf_accepts :
    (Instr.cmdSetAbc true 0xE6).wf ∧ (Instr.cmdFrame 0x99 #v[0, 0, 0, 0x13, 0x88] 0xCB).wf ∧
    (Instr.rspReadCo2 0x03 0x84 #v[0, 0, 0, 0] 0xF3).wf ∧ (Instr.rspFrame 0x87 #v[0x03, 0x84, 0, 0, 0, 0] 0xF2).wf := by decide

/-! ## Decoding, from the spec's encodings -/

/-- R55: the four values of the 2-bit field. -/
theorem test_decode_requests :
    decodeTableWord 8 0b00 = some .readCo2 ∧ decodeTableWord 8 0b01 = some (.setAbc false) ∧
    decodeTableWord 8 0b10 = some (.sendCmd 0 #v[0, 0, 0, 0, 0]) ∧ decodeTableWord 8 0b11 = some .recvResp := by decide

/-- R68, bits 71:64 to 7:0 written out. -/
theorem test_decode_cmdReadCo2 :
    decodeTableWord 72 0b111111110000000110000110000000000000000000000000000000000000000001111001 = some .cmdReadCo2 := by decide

/-- R68: `a` = A0 in bits 47:40, `k` = E6 in bits 7:0. -/
theorem test_decode_cmdSetAbc :
    decodeTableWord 72 0b111111110000000101111001101000000000000000000000000000000000000011100110 = some (.cmdSetAbc true 0xE6) := by
  decide

/-- 95_test_vectors.md L2-FRAME, first row. -/
theorem test_decode_cmdFrame :
    decodeTableWord 72 0xFF01990000001388CB = some (.cmdFrame 0x99 #v[0, 0, 0, 0x13, 0x88] 0xCB) := by decide

/-- SEND_CMD 0x79 with another p0 is no CMD_SET_ABC (the table: "no other value is emitted"). -/
theorem test_decode_cmdFrame_code79 :
    decodeTableWord 72 0xFF0179010000000085 = some (.cmdFrame 0x79 #v[1, 0, 0, 0, 0] 0x85) := by decide

/-- 95_test_vectors.md L1-2. -/
theorem test_decode_rspReadCo2 :
    decodeTableWord 72 0xFF86038400000000F3 = some (.rspReadCo2 0x03 0x84 #v[0, 0, 0, 0] 0xF3) := by decide

/-- 95_test_vectors.md L2-RECV_RESP, second row. -/
theorem test_decode_rspFrame :
    decodeTableWord 72 0xFF87038400000000F2 = some (.rspFrame 0x87 #v[0x03, 0x84, 0, 0, 0, 0] 0xF2) := by decide

theorem test_decode_rejects :
    decodeResponse #v[0xFE, 0x86, 0, 0, 0, 0, 0, 0, 0] = .error (.badStartMarker 0xFE) ∧
    decodeCommand #v[0xFF, 0x02, 0, 0, 0, 0, 0, 0, 0] = .error (.badReservedByte 0x02) ∧
    decodeResponseBytes [0xFF, 0x86] = .error (.wrongLength 2) := by decide

/-- R65, R67. -/
theorem test_text :
    (Instr.sendCmd 0x86 #v[0, 0, 0, 0, 0]).text = "SEND_CMD 0x86, 0x00, 0x00, 0x00, 0x00, 0x00" ∧
    Instr.cmdReadCo2.text = "FF 01 86 00 00 00 00 00 79" ∧ Instr.abcOn.text = "SET_ABC 1" := by decide

/-! ## One step of each instruction -/

/-- 95_test_vectors.md L2-CK8. -/
theorem test_ck8 :
    ck8 #v[0xFF, 0x01, 0xFF, 0xFF, 0xFF, 0xFF, 0xFF, 0xFF, 0] = 0x05 ∧ ck8 #v[0xFF, 0x01, 0x80, 0x7F, 0, 0, 0, 0, 0] = 0x00 := by
  decide

theorem test_readCo2 :
    fieldOf (fun s => (s.phase, s.tx)) (exec .readCo2 (idleWith [] [])) = some (Phase.sending, pktRead) := by decide

theorem test_setAbc_on :
    fieldOf (fun s => (s.op, s.reqEn, s.tx)) (exec (.setAbc true) (idleWith [] []))
      = some (Op.setAbc, true, #v[0xFF, 0x01, 0x79, 0xA0, 0, 0, 0, 0, 0xE6]) := by decide

/-- 95_test_vectors.md L2-FRAME, third row: no escaping. -/
theorem test_sendCmd :
    fieldOf (fun s => s.tx) (exec (.sendCmd 0xFF #v[0xFF, 0xFF, 0xFF, 0xFF, 0xFF]) (idleWith [] []))
      = some #v[0xFF, 0x01, 0xFF, 0xFF, 0xFF, 0xFF, 0xFF, 0xFF, 0x05] := by decide

theorem test_recvResp :
    fieldOf (fun s => (s.phase, s.rxIdx, s.resultValid)) (exec .recvResp (idleWith [] [])) = some (Phase.receiving, 0, false) := by
  decide

theorem test_request_while_busy :
    step { sendingAt .readCo2 pktRead 3 [.ok] with host := [some (.request ⟨3, false, 0, #v[0, 0, 0, 0, 0]⟩)] }
      = .refused .requestWhileBusy := rfl

theorem test_request_unbound : exec .readCo2 State.reset = .refused .noTransportBound := rfl

/-- R86: after its 9th byte READ_CO2 receives. -/
theorem test_cmdReadCo2_last :
    fieldOf (fun s => (s.phase, s.txIdx, s.rxIdx)) (step (sendingAt .readCo2 pktRead 8 [.ok]))
      = some (Phase.receiving, 9, 0) := by decide

/-- 95_test_vectors.md L2-SET_ABC, third row: the fourth call fails. -/
theorem test_cmdSetAbc_fail :
    fieldOf (fun s => (s.phase, s.status, s.history.drop 3))
        (exec (.cmdSetAbc true 0xE6) (sendingAt .setAbc #v[0xFF, 0x01, 0x79, 0xA0, 0, 0, 0, 0, 0xE6] 3 [.fail]))
      = some (Phase.idle, 1, [Event.sink 0xA0 .fail, Event.complete .writeFailure]) := by decide

/-- 95_test_vectors.md L2-FRAME, first row: the checksum byte CB goes out and the operation ends NONE. -/
theorem test_cmdFrame_last :
    fieldOf (fun s => (s.phase, s.status, s.history.drop 8))
        (step (sendingAt .sendCmd #v[0xFF, 0x01, 0x99, 0, 0, 0, 0x13, 0x88, 0xCB] 8 [.ok]))
      = some (Phase.idle, 0, [Event.sink 0xCB .ok, Event.complete .none]) := by decide

/-- 95_test_vectors.md L1-2. -/
theorem test_rspReadCo2 :
    fieldOf (fun s => (s.phase, s.status, s.ppm)) (step (validatingOf .readCo2 pkt900)) = some (Phase.idle, 0, 900) := by decide

/-- 95_test_vectors.md L2-READ_CO2: bad echo and bad checksum reports the checksum. -/
theorem test_rspFrame_checksum_first :
    fieldOf (fun s => s.status) (step (validatingOf .readCo2 #v[0xFF, 0x87, 0x03, 0x84, 0, 0, 0, 0, 0xF3])) = some 3 := by decide

/-- 95_test_vectors.md L2-READ_CO2: a bad echo with a right checksum. -/
theorem test_rspFrame_echo :
    fieldOf (fun s => s.status) (step (validatingOf .readCo2 #v[0xFF, 0x79, 0, 0, 0, 0, 0, 0, 0x87])) = some 5 := by decide

/-- 95_test_vectors.md L2-RECV_RESP: no echo check. -/
theorem test_rspReadCo2_received :
    fieldOf (fun s => (s.status, s.resp)) (step (validatingOf .recvResp pkt900)) = some (0, pkt900) := by decide

theorem test_receive_bad_start :
    fieldOf (fun s => (s.phase, s.status, s.rxIdx)) (step (receivingAt .recvResp pkt900 0 [.ok 0x86])) = some (Phase.idle, 2, 0) := by
  decide

theorem test_receive_fail :
    fieldOf (fun s => (s.phase, s.status)) (step (receivingAt .recvResp pkt900 8 [.fail])) = some (Phase.idle, 4) := by decide

theorem test_wait : step (receivingAt .recvResp pkt900 4 []) = .next (receivingAt .recvResp pkt900 4 []) := rfl

/-- 95_test_vectors.md L2-Host interface, first row. -/
theorem test_read_status_after_reset :
    step { State.reset with host := [some .readStatus] } = .fault .resultNotValid := rfl

theorem test_reset_busy :
    fieldOf (fun s => (s.phase, s.resultValid, s.history))
        (step { sendingAt .readCo2 pktRead 3 [.ok] with host := [some .reset] })
      = some (Phase.idle, false, sinkEvents pktRead 3) := by decide

/-- Each row's word runs as the first instruction after reset. -/
theorem test_first_instruction :
    fieldOf (fun s => s.op) (step (State.reset.withFetchWord 8 0b11)) = some Op.recvResp ∧
    fieldOf (fun s => s.txIdx) (step (State.reset.withFetchWord 72 0xFF0186000000000079)) = some 1 ∧
    fieldOf (fun s => s.ppm) (step (State.reset.withFetchWord 72 0xFF86038400000000F3)) = some 900 := by decide

/-! ## Witnesses: each statement's hypotheses are met -/

theorem witness_DecodeOfEncodedWordIsTheInstruction : (Instr.cmdFrame 0x99 #v[0, 0, 0, 0x13, 0x88] 0xCB).wf = true := by decide

theorem witness_PacketIsDecodedExactlyWhenItsFixedBytesAreRight :
    (∃ p : Packet, p[0] = 0xFF ∧ p[1] = 0x01) ∧ (∃ p : Packet, p[0] ≠ 0xFF) ∧ (∃ p : Packet, p[0] = 0xFF ∧ p[1] ≠ 0x01) :=
  ⟨⟨pktRead, by decide⟩, ⟨#v[0xFE, 0, 0, 0, 0, 0, 0, 0, 0], by decide⟩, ⟨pkt900, by decide⟩⟩

/-- One witness for each value of `op` at which the clauses differ. -/
theorem witness_RequestFieldNotReadHasNoEffect :
    ((⟨0, true, 1, #v[1, 0, 0, 0, 0]⟩ : Request).op = (⟨0, false, 0, #v[0, 0, 0, 0, 0]⟩ : Request).op) ∧
    ((⟨1, true, 1, #v[1, 0, 0, 0, 0]⟩ : Request).en = (⟨1, true, 0, #v[0, 0, 0, 0, 0]⟩ : Request).en) ∧
    ((⟨2, true, 1, #v[1, 0, 0, 0, 0]⟩ : Request).code = (⟨2, false, 1, #v[1, 0, 0, 0, 0]⟩ : Request).code) ∧
    (idleWith [] []).phase = .idle ∧ (idleWith [] []).transport ≠ none := by decide

theorem witness_AccumulatorComputesChecksumInAnyOrder :
    ([0, 0, 0, 0, 0, 0x86, 0x01] : List Byte).Perm [pktRead[1], pktRead[2], pktRead[3], pktRead[4], pktRead[5], pktRead[6], pktRead[7]] := by
  decide

/-- The ends of the span, a sum of exactly 256, and a sum of 80. -/
theorem witness_ChecksumCornerCasesAndDetection :
    ((1 ≤ 1 ∧ 1 ≤ 7) ∧ (1 ≤ 7 ∧ 7 ≤ 7) ∧ (0x80 : Byte) ≠ 0) ∧
    spanTotal #v[0, 0x01, 0xFF, 0, 0, 0, 0, 0, 0] = 256 ∧ spanSum #v[0, 0x80, 0, 0, 0, 0, 0, 0, 0] = 0x80 := by decide

/-- For the four acceptance statements. -/
theorem witness_RequestIsAcceptedWhenIdle : (idleWith [] []).phase = .idle ∧ (idleWith [] []).transport ≠ none := by decide

theorem witness_RequestIsRefusedWhileBusyOrUnbound :
    (sendingAt .readCo2 pktRead 0 []).phase ≠ .idle ∧ State.reset.phase = .idle ∧ State.reset.transport = none := by decide

/-- CMD_READ_CO2, CMD_SET_ABC and CMD_FRAME at the first byte and the last before the ninth. -/
theorem witness_CommandByteIsSent :
    encode .cmdReadCo2 = .command pktRead ∧
    encode (.cmdSetAbc true 0xE6) = .command #v[0xFF, 0x01, 0x79, 0xA0, 0, 0, 0, 0, 0xE6] ∧
    encode (.cmdFrame 0x99 #v[0, 0, 0, 0x13, 0x88] 0xCB) = .command #v[0xFF, 0x01, 0x99, 0, 0, 0, 0x13, 0x88, 0xCB] ∧
    (sendingAt .readCo2 pktRead 0 [.ok]).phase = .sending ∧ (sendingAt .readCo2 pktRead 0 [.ok]).txIdx < 8 ∧
    (sendingAt .readCo2 pktRead 7 [.ok]).txIdx < 8 ∧
    (sendingAt .readCo2 pktRead 7 [.ok]).transport = some { sink := .ok :: [], source := [] } := by decide

theorem witness_CommandLastByteIsSent :
    encode .cmdReadCo2 = .command pktRead ∧ (sendingAt .readCo2 pktRead 8 [.ok]).phase = .sending ∧
    (sendingAt .readCo2 pktRead 8 [.ok]).txIdx = 8 ∧ (sendingAt .readCo2 pktRead 8 [.ok]).op = .readCo2 ∧
    (sendingAt .sendCmd pktRead 8 [.ok]).op ≠ .readCo2 ∧
    (sendingAt .sendCmd pktRead 8 [.ok]).transport = some { sink := .ok :: [], source := [] } := by decide

theorem witness_SinkFailureEndsTheOperation :
    encode .cmdReadCo2 = .command pktRead ∧ (sendingAt .readCo2 pktRead 0 [.fail]).phase = .sending ∧
    (sendingAt .readCo2 pktRead 0 [.fail]).txIdx < 9 ∧ (sendingAt .readCo2 pktRead 8 [.fail]).txIdx < 9 ∧
    (sendingAt .readCo2 pktRead 8 [.fail]).transport = some { sink := .fail :: [], source := [] } := by decide

/-- The request READ_CO2 at the port of an idle block, and SEND_CMD there. -/
def requestAt (op : BitVec 2) (sink : List SinkAnswer) (source : List SourceAnswer) : State :=
  { idleWith sink source with host := [some (.request ⟨op, true, 0x99, #v[0, 0, 0, 0x13, 0x88]⟩)] }

theorem witness_TransmissionMakesExactlyTheseCalls :
    (requestAt 0 (List.replicate 9 .ok) []).phase = .idle ∧
    packetOf ⟨0, true, 0x99, #v[0, 0, 0, 0x13, 0x88]⟩ = some pktRead ∧
    packetOf ⟨2, true, 0x99, #v[0, 0, 0, 0x13, 0x88]⟩ = some #v[0xFF, 0x01, 0x99, 0, 0, 0, 0x13, 0x88, 0xCB] ∧
    (requestAt 0 (List.replicate 9 .ok) []).transport = some { sink := List.replicate 9 .ok ++ [], source := [] } ∧
    (requestAt 2 [.fail] []).transport = some { sink := List.replicate 0 .ok ++ .fail :: [], source := [] } ∧
    (requestAt 2 (List.replicate 8 .ok ++ [.fail]) []).transport
      = some { sink := List.replicate 8 .ok ++ .fail :: [], source := [] } := by decide

theorem witness_ReceivedByteIsStored :
    ((receivingAt .recvResp pkt900 0 [.ok 0xFF]).phase = .receiving ∧ (receivingAt .recvResp pkt900 0 [.ok 0xFF]).host = [] ∧
    (receivingAt .recvResp pkt900 0 [.ok 0xFF]).rxIdx < 9 ∧
    (receivingAt .recvResp pkt900 0 [.ok 0xFF]).transport = some { sink := [], source := .ok 0xFF :: [] } ∧
    ((receivingAt .recvResp pkt900 0 [.ok 0xFF]).rxIdx = 0 → (0xFF : Byte) = 0xFF) ∧
    (receivingAt .recvResp pkt900 8 [.ok 0xF3]).rxIdx = 8) ∧
    hostSilent (receivingAt .recvResp pkt900 0 [.ok 0xFF]) ∧ hostSilent { receivingAt .recvResp pkt900 0 [.ok 0xFF] with host := [none] } :=
  ⟨by decide, .inl rfl, .inr ⟨[], rfl⟩⟩

theorem witness_WrongStartByteEndsTheOperation :
    ((receivingAt .recvResp pkt900 0 [.ok 0x86]).phase = .receiving ∧ (receivingAt .recvResp pkt900 0 [.ok 0x86]).host = [] ∧
    (receivingAt .recvResp pkt900 0 [.ok 0x86]).rxIdx = 0 ∧
    (receivingAt .recvResp pkt900 0 [.ok 0x86]).transport = some { sink := [], source := .ok 0x86 :: [] } ∧
    (0x86 : Byte) ≠ 0xFF) ∧
    hostSilent (receivingAt .recvResp pkt900 0 [.ok 0x86]) ∧ hostSilent { receivingAt .recvResp pkt900 0 [.ok 0x86] with host := [none] } :=
  ⟨by decide, .inl rfl, .inr ⟨[], rfl⟩⟩

theorem witness_inv_receiving_first : StateInv (receivingAt .recvResp pkt900 0 [.ok 0x86]) where
  txBound := by decide
  rxBound := by decide
  busyBound := by decide
  busyNoResult := by decide
  sending := by decide
  receiving := fun _ => ⟨by decide, .inr rfl, rfl, by decide, by decide⟩
  validating := fun h => absurd h (by decide)
  completed := fun h => absurd h (by decide)

/-- The invariant of a block receiving its ninth byte for RECV_RESP. -/
theorem witness_inv_receiving : StateInv (receivingAt .recvResp pkt900 8 [.fail]) where
  txBound := by decide
  rxBound := by decide
  busyBound := by decide
  busyNoResult := by decide
  sending := by decide
  receiving := fun _ => ⟨by decide, .inr rfl, rfl, by decide, by decide⟩
  validating := fun h => absurd h (by decide)
  completed := fun h => absurd h (by decide)

theorem witness_SourceFailureEndsTheOperation :
    ((receivingAt .recvResp pkt900 8 [.fail]).phase = .receiving ∧ (receivingAt .recvResp pkt900 8 [.fail]).host = [] ∧
    (receivingAt .recvResp pkt900 8 [.fail]).rxIdx < 9 ∧ (receivingAt .recvResp pkt900 0 [.fail]).rxIdx < 9 ∧
    (receivingAt .recvResp pkt900 8 [.fail]).transport = some { sink := [], source := .fail :: [] }) ∧
    hostSilent (receivingAt .recvResp pkt900 8 [.fail]) ∧ hostSilent { receivingAt .recvResp pkt900 8 [.fail] with host := [none] } :=
  ⟨by decide, .inl rfl, .inr ⟨[], rfl⟩⟩

theorem witness_ReadCo2ResponseIsDecoded :
    pkt900 = #v[0xFF, 0x86, 0x03, 0x84, 0, 0, 0, 0, 0xF3] ∧ (validatingOf .readCo2 pkt900).phase = .validating ∧
    (validatingOf .readCo2 pkt900).op = .readCo2 ∧ 0xF3 = ck8 pkt900 := by decide

theorem witness_WrongEchoIsReported :
    (validatingOf .readCo2 pkt900).phase = .validating ∧ (validatingOf .readCo2 pkt900).op = .readCo2 ∧
    0xF2 = ck8 #v[0xFF, 0x87, 0x03, 0x84, 0, 0, 0, 0, 0xF2] ∧ (0x87 : Byte) ≠ 0x86 := by decide

/-- RSP_READ_CO2 and RSP_FRAME. -/
theorem witness_ReceivedResponseIsHandedOver :
    encode (.rspReadCo2 0x03 0x84 #v[0, 0, 0, 0] 0xF3) = .response pkt900 ∧
    encode (.rspFrame 0x87 #v[0x03, 0x84, 0, 0, 0, 0] 0xF2) = .response #v[0xFF, 0x87, 0x03, 0x84, 0, 0, 0, 0, 0xF2] ∧
    (validatingOf .recvResp pkt900).phase = .validating ∧ (validatingOf .recvResp pkt900).op = .recvResp ∧
    pkt900[8] = ck8 pkt900 := by decide

theorem witness_WrongChecksumIsReportedFirst :
    encode (.rspReadCo2 0x03 0x84 #v[0, 0, 0, 0] 0xF4) = .response #v[0xFF, 0x86, 0x03, 0x84, 0, 0, 0, 0, 0xF4] ∧
    (validatingOf .recvResp pkt900).phase = .validating ∧
    (#v[0xFF, 0x86, 0x03, 0x84, 0, 0, 0, 0, 0xF4] : Packet)[8] ≠ ck8 #v[0xFF, 0x86, 0x03, 0x84, 0, 0, 0, 0, 0xF4] := by decide

theorem witness_PacketStepIsEnabledInItsPhaseOnly :
    encode .cmdReadCo2 = .command pktRead ∧ State.reset.phase ≠ .sending ∧ 9 ≤ (sendingAt .readCo2 pktRead 9 []).txIdx ∧
    encode (.rspReadCo2 0x03 0x84 #v[0, 0, 0, 0] 0xF3) = .response pkt900 ∧ State.reset.phase ≠ .validating := by decide

/-- A step that is no reset and no request: for the statements about every step. -/
theorem witness_EveryStep :
    step (receivingAt .recvResp pkt900 4 []) = .next (receivingAt .recvResp pkt900 4 []) ∧
    (∀ rest, (receivingAt .recvResp pkt900 4 []).host ≠ some .reset :: rest) ∧
    (∀ r rest, (receivingAt .recvResp pkt900 4 []).host ≠ some (.request r) :: rest) :=
  ⟨test_wait, fun _ h => by simp [receivingAt, State.reset] at h, fun _ _ h => by simp [receivingAt, State.reset] at h⟩

/-- A completion, with its new status: for the other case of the statement on `status`. -/
theorem witness_OnlyCompletionWritesStatus :
    fieldOf (fun s => (s.status, s.resultValid)) (step (receivingAt .recvResp pkt900 8 [.fail])) = some (4, true) ∧
    (receivingAt .recvResp pkt900 8 [.fail]).status = 0 := by decide

theorem witness_StatusCodesSixAndSevenAreNeverWritten :
    { State.reset with resultValid := true, status := 6 }.resultValid = true ∧
    6 ≤ { State.reset with resultValid := true, status := 6 }.status.toNat ∧
    (receivingAt .recvResp pkt900 8 [.fail]).resultValid = false := by decide

theorem witness_UnansweredCallHangsForEver :
    (sendingAt .readCo2 pktRead 8 []).host = [] ∧
    (sendingAt .readCo2 pktRead 8 []).transport = some { sink := [], source := [] } ∧
    (sendingAt .readCo2 pktRead 8 []).phase = .sending ∧ (sendingAt .readCo2 pktRead 8 []).txIdx < 9 ∧
    (receivingAt .recvResp pkt900 0 []).phase = .receiving ∧ (receivingAt .recvResp pkt900 0 []).rxIdx < 9 := by decide

/-- The invariant of a block sending the last byte of READ_CO2's command. -/
theorem witness_inv_sending : StateInv (sendingAt .readCo2 pktRead 8 [.ok]) where
  txBound := by decide
  rxBound := by decide
  busyBound := by decide
  busyNoResult := by decide
  sending := fun _ => ⟨by decide, by decide, by decide, by decide⟩
  receiving := fun h => absurd h (by decide)
  validating := fun h => absurd h (by decide)
  completed := fun h => absurd h (by decide)

/-- The invariant of a block that has received its response for RECV_RESP whole. -/
theorem witness_inv_validating : StateInv (validatingOf .recvResp pkt900) where
  txBound := by decide
  rxBound := by decide
  busyBound := by decide
  busyNoResult := by decide
  sending := by decide
  receiving := fun h => absurd h (by decide)
  validating := fun _ => ⟨by decide, .inr rfl, rfl, by decide, by decide⟩
  completed := fun h => absurd h (by decide)

/-- An idle block after SET_ABC 1 has completed with NONE. -/
def afterSetAbc : State :=
  { State.reset with op := .setAbc, reqEn := true, tx := #v[0xFF, 0x01, 0x79, 0xA0, 0, 0, 0, 0, 0xE6], txIdx := 9,
                     resultValid := true, transport := some { sink := [], source := [] },
                     history := sinkEvents #v[0xFF, 0x01, 0x79, 0xA0, 0, 0, 0, 0, 0xE6] 9 ++ [.complete .none] }

theorem witness_inv_completed : StateInv afterSetAbc where
  txBound := by decide
  rxBound := by decide
  busyBound := by decide
  busyNoResult := by decide
  sending := by decide
  receiving := fun h => absurd h (by decide)
  validating := fun h => absurd h (by decide)
  completed := fun _ => ⟨by decide, .none, rfl, rfl⟩

/-- An idle block after RECV_RESP has completed with NONE. -/
def afterRecvResp : State :=
  { State.reset with op := .recvResp, rx := pkt900, rxIdx := 9, resp := pkt900, resultValid := true,
                     transport := some { sink := [], source := [] }, history := sourceEvents pkt900 9 ++ [.complete .none] }

theorem witness_inv_received : StateInv afterRecvResp where
  txBound := by decide
  rxBound := by decide
  busyBound := by decide
  busyNoResult := by decide
  sending := by decide
  receiving := fun h => absurd h (by decide)
  validating := fun h => absurd h (by decide)
  completed := fun _ => ⟨rfl, .none, rfl, ⟨rfl, rfl⟩, by decide, rfl⟩

/-- An idle block after READ_CO2 has failed at its first sink call. -/
def afterWriteFailure : State :=
  { State.reset with op := .readCo2, tx := pktRead, status := 1, resultValid := true,
                     transport := some { sink := [], source := [] },
                     history := [.sink 0xFF .fail, .complete .writeFailure] }

theorem witness_inv_failed : StateInv afterWriteFailure where
  txBound := by decide
  rxBound := by decide
  busyBound := by decide
  busyNoResult := by decide
  sending := by decide
  receiving := fun h => absurd h (by decide)
  validating := fun h => absurd h (by decide)
  completed := fun _ => ⟨by decide, .writeFailure, rfl, by decide, 0, by decide, rfl⟩

/-- For the statements on what a step leaves: steps, each from a state that meets the invariant (`witness_inv_receiving`,
`witness_inv_validating`, `witness_inv_sending`), to a valid result, and to a running operation. -/
theorem witness_OutcomesOfEachOperation_step :
    fieldOf (fun s => (s.resultValid, s.op)) (step (receivingAt .recvResp pkt900 8 [.fail])) = some (true, Op.recvResp) ∧
    fieldOf (fun s => (s.resultValid, s.op)) (step (validatingOf .recvResp pkt900)) = some (true, Op.recvResp) ∧
    fieldOf (fun s => (busy s, s.op)) (step (sendingAt .readCo2 pktRead 8 [.ok])) = some (true, Op.readCo2) := by decide

/-- The states those statements speak about after the step: one of each shape with a valid result. -/
theorem witness_OutcomesOfEachOperation :
    afterSetAbc.resultValid = true ∧ afterSetAbc.op = .setAbc ∧ afterRecvResp.resultValid = true ∧
    afterRecvResp.op = .recvResp ∧ afterWriteFailure.resultValid = true ∧ afterWriteFailure.op = .readCo2 := by decide

/-- A history with a source event that a later event follows. -/
theorem witness_ShapesOfTransportCalls :
    busy (sendingAt .readCo2 pktRead 8 [.ok]) = true ∧
    afterRecvResp.history = [] ++ Event.source (.ok 0xFF) :: afterRecvResp.history.drop 1 := by decide

/-- For the phase table: the step of each phase. -/
theorem witness_PhaseChangesOnlyByTheTable :
    fieldOf (fun s => s.phase) (step (sendingAt .readCo2 pktRead 8 [.ok])) = some Phase.receiving ∧
    fieldOf (fun s => s.phase) (step (receivingAt .recvResp pkt900 8 [.fail])) = some Phase.idle ∧
    fieldOf (fun s => s.phase) (step (validatingOf .recvResp pkt900)) = some Phase.idle ∧
    fieldOf (fun s => s.phase) (step (requestAt 3 [] [])) = some Phase.receiving ∧
    (validatingOf .recvResp pkt900).host = [] := by decide

theorem witness_StepRunsTheDecodedInstruction :
    (requestAt 3 [] []).host = some (.request ⟨3, true, 0x99, #v[0, 0, 0, 0x13, 0x88]⟩) :: [] ∧
    (sendingAt .readCo2 pktRead 8 [.ok]).phase = .sending ∧
    decode (.command (sendingAt .readCo2 pktRead 8 [.ok]).tx) = .ok .cmdReadCo2 ∧
    (sendingAt .readCo2 pktRead 8 [.ok]).host = [] ∧
    { sendingAt .readCo2 pktRead 8 [.ok] with host := [none] }.host = none :: [] ∧
    (validatingOf .recvResp pkt900).phase = .validating ∧
    decode (.response (validatingOf .recvResp pkt900).rx) = .ok (.rspReadCo2 0x03 0x84 #v[0, 0, 0, 0] 0xF3) := by decide

theorem witness_PlacedWordIsRunNext :
    decodeTableWord 8 0b11 = some .recvResp ∧ decodeTableWord 72 0xFF0186000000000079 = some .cmdReadCo2 ∧
    decodeTableWord 72 0xFF86038400000000F3 = some (.rspReadCo2 0x03 0x84 #v[0, 0, 0, 0] 0xF3) := by decide

/-- An operation that completes and one that hangs. -/
theorem witness_OperationEndsWithTheOutcomeOfThePriority :
    (requestAt 3 [] [.ok 0x00]).phase = .idle ∧
    (requestAt 3 [] [.ok 0x00]).host = [some (.request ⟨3, true, 0x99, #v[0, 0, 0, 0x13, 0x88]⟩)] ∧
    (requestAt 3 [] [.ok 0x00]).transport = some { sink := [], source := [.ok 0x00] } ∧
    outcome .recvResp { sink := [], source := [.ok 0x00] } = some .invalidStartByte ∧
    outcome .readCo2 { sink := [.ok], source := [] } = none := by decide

/-- A dutiful host with nothing to do, with a request, with a read and with a reset. -/
theorem witness_DutifulHostIsNeverStopped :
    hostRespects (sendingAt .readCo2 pktRead 8 [.ok]) = true ∧
    hostRespects { afterSetAbc with host := [some (.request ⟨3, true, 0, #v[0, 0, 0, 0, 0]⟩)] } = true ∧
    hostRespects { afterSetAbc with host := [some .readStatus] } = true ∧
    hostRespects { sendingAt .readCo2 pktRead 8 [.ok] with host := [some .reset] } = true := by decide

/-- Two idle blocks with different working state and the same view. -/
theorem witness_WorkingStateOfAnIdleBlockHasNoLaterEffect :
    (idleWith [.ok] []).phase = .idle ∧ { idleWith [.ok] [] with tx := pktRead, rxIdx := 4, acc := 7, op := .sendCmd }.phase = .idle ∧
    hostView (idleWith [.ok] []) = hostView { idleWith [.ok] [] with tx := pktRead, rxIdx := 4, acc := 7, op := .sendCmd } ∧
    (idleWith [.ok] []).host = { idleWith [.ok] [] with tx := pktRead, rxIdx := 4, acc := 7, op := .sendCmd }.host ∧
    (idleWith [.ok] []).draws = { idleWith [.ok] [] with tx := pktRead, rxIdx := 4, acc := 7, op := .sendCmd }.draws := by decide

/-- A witness for each read, where it gives a value and where it faults. -/
theorem witness_ResultPortReads :
    ({ afterSetAbc with host := [some .readStatus] }.resultValid = true ∧ afterSetAbc.status.toNat < 6) ∧
    State.reset.resultValid = false ∧
    (afterRecvResp.resultValid = true ∧ afterRecvResp.op = .recvResp ∧ afterRecvResp.status = 0) ∧
    ({ afterSetAbc with op := .readCo2 }.resultValid = true ∧ { afterSetAbc with op := .readCo2 }.op = .readCo2 ∧
      { afterSetAbc with op := .readCo2 }.status = 0) ∧
    ¬ (afterSetAbc.resultValid = true ∧ afterSetAbc.op = .readCo2 ∧ afterSetAbc.status = 0) ∧
    ¬ (afterSetAbc.resultValid = true ∧ afterSetAbc.op = .recvResp ∧ afterSetAbc.status = 0) ∧
    { State.reset with host := [some .readPpm] }.host = some .readPpm :: [] := by decide

theorem witness_ResetAbandonsTheOperation :
    { sendingAt .readCo2 pktRead 3 [.ok] with host := [some .reset] }.host = some .reset :: [] := by decide

theorem witness_BoundBlockAcceptsAnyRequestAfterReset :
    { sendingAt .readCo2 pktRead 3 [.ok] with
        host := [some .reset, some (.request ⟨3, true, 0, #v[0, 0, 0, 0, 0]⟩)] }.transport ≠ none ∧
    { sendingAt .readCo2 pktRead 3 [.ok] with
        host := [some .reset, some (.request ⟨3, true, 0, #v[0, 0, 0, 0, 0]⟩)] }.host
      = [some .reset, some (.request ⟨3, true, 0, #v[0, 0, 0, 0, 0]⟩)] := by decide

theorem witness_HostCannotCancel :
    busy { sendingAt .readCo2 pktRead 3 [.ok] with host := [some .readBusy] } = true ∧
    HostAction.readBusy ≠ .reset ∧
    step { sendingAt .readCo2 pktRead 3 [.ok] with host := [some .readBusy] }
      = .next { sendingAt .readCo2 pktRead 3 [.ok] with lastRead := some (.busy true) } :=
  ⟨by decide, by decide, rfl⟩

theorem witness_BindingWhileIdle :
    { State.reset with host := [some (.bind { sink := [], source := [] })] }.phase = .idle ∧
    { sendingAt .readCo2 pktRead 3 [.ok] with host := [some (.bind { sink := [], source := [] })] }.phase ≠ .idle := by decide

/-- With and without an entry in the host's list. -/
theorem witness_IdleBlockWaits :
    State.reset.phase = .idle ∧ hostSilent State.reset ∧ hostSilent { State.reset with host := [none, some .reset] } :=
  ⟨rfl, .inl rfl, .inr ⟨_, rfl⟩⟩

/-- A running block in another busy phase with another operation, and an idle one with a valid result. -/
theorem witness_ClaimsCannotReadHiddenState :
    (Phase.receiving = .idle ↔ (sendingAt .readCo2 pktRead 3 [.ok]).phase = .idle) ∧
    ((sendingAt .readCo2 pktRead 3 [.ok]).resultValid = true → Op.recvResp = (sendingAt .readCo2 pktRead 3 [.ok]).op) ∧
    (Phase.idle = .idle ↔ afterSetAbc.phase = .idle) ∧ (afterSetAbc.resultValid = true → Op.setAbc = afterSetAbc.op) := by decide

/-- An operation that completes and one that hangs. -/
theorem witness_OperationAsTheHostSeesIt :
    busy (requestAt 3 [] [.ok 0x00]) = false ∧
    (requestAt 3 [] [.ok 0x00]).host = [some (.request ⟨3, true, 0x99, #v[0, 0, 0, 0x13, 0x88]⟩)] ∧
    (requestAt 3 [] [.ok 0x00]).transport = some { sink := [], source := [.ok 0x00] } ∧
    busy (requestAt 0 [.ok] []) = false ∧ (requestAt 0 [.ok] []).transport = some { sink := [.ok], source := [] } := by decide

/-- 95_test_vectors.md P1: 900 ppm, nine sink calls, nine source calls, and the completion. -/
theorem test_view_of_P1 :
    (viewAfter ⟨0, false, 0, #v[0, 0, 0, 0, 0]⟩ { sink := List.replicate 9 .ok, source := pkt900.toList.map .ok } none).ppm = some 900 ∧
    (viewAfter ⟨0, false, 0, #v[0, 0, 0, 0, 0]⟩ { sink := List.replicate 9 .ok, source := pkt900.toList.map .ok } none).history
      = sinkEvents pktRead 9 ++ sourceEvents pkt900 9 ++ [.complete .none] := by decide

/-- 95_test_vectors.md P3, step 1: one byte consumed, the rest of the stream left. -/
theorem test_view_of_P3 :
    (viewAfter ⟨0, false, 0, #v[0, 0, 0, 0, 0]⟩ { sink := List.replicate 9 .ok, source := [.ok 0x86, .ok 0x03] } none).status = some 2 ∧
    (viewAfter ⟨0, false, 0, #v[0, 0, 0, 0, 0]⟩ { sink := List.replicate 9 .ok, source := [.ok 0x86, .ok 0x03] } none).transport
      = some { sink := [], source := [.ok 0x03] } := by decide

/-- A block right after reset and one that has completed SET_ABC. -/
theorem witness_FreshAndUsedBlocksGiveTheSameResults :
    { State.reset with transport := afterSetAbc.transport,
                       host := [some (.request ⟨3, true, 0, #v[0, 0, 0, 0, 0]⟩)] }.phase = .idle ∧
    { afterSetAbc with host := [some (.request ⟨3, true, 0, #v[0, 0, 0, 0, 0]⟩)] }.phase = .idle ∧
    { afterSetAbc with host := [some (.request ⟨3, true, 0, #v[0, 0, 0, 0, 0]⟩)] }.host
      = some (.request ⟨3, true, 0, #v[0, 0, 0, 0, 0]⟩) :: [] ∧
    afterSetAbc.lastRead = State.reset.lastRead ∧ afterSetAbc.draws = State.reset.draws := by decide

/-- R136: a reset does not write `status`. -/
theorem test_reset_keeps_status :
    fieldOf (fun s => s.status) (step { afterWriteFailure with host := [some .reset] }) = some 1 := by decide

end Sys2Proof.Tests
end

/-! # A placed word is the next thing run -/
namespace Sys2Proof.Machine

/-- A word of the opcode table stands for an encoding, and its instruction is what that encoding decodes to. -/
theorem decodeTableWord_eq_some {nbits w : Nat} {i : Instr} (h : decodeTableWord nbits w = some i) :
    ∃ e, tableWord nbits w = some e ∧ decode e = .ok i := by
  unfold decodeTableWord at h
  split at h
  · rename_i e he
    refine ⟨e, he, ?_⟩
    cases hd : decode e with
    | error _ => simp [hd, Except.toOption] at h
    | ok j => simpa [hd, Except.toOption] using h
  · cases h

/-- An encoding placed for the next step is run by it, with the host's own actions left to come. -/
theorem step_placeEncoding {e : Encoding} {i : Instr} (h : decode e = .ok i) (s : State) :
    step (placeEncoding s e) = exec i { placeEncoding s e with host := s.host } := by
  cases e with
  | request r =>
    have hi : decodeRequest r = i := by simpa [decode] using h
    rw [← hi]
    exact step_of_host_request rfl
  | command p =>
    rw [step_of_host_none (rest := s.host) rfl, blockStep_of_sending rfl, exec_of_command (encode_of_decodeCommand h)]
    rfl
  | response p =>
    rw [step_of_host_none (rest := s.host) rfl, blockStep_of_validating rfl,
      exec_of_response (encode_of_decodeResponse h)]
    rfl

/-- Settles O37: the placed word's encoding is at the port, in `tx` or in `rx`, where the next step fetches it. -/
theorem placedWordIsRunNext : Obligations.PlacedWordIsRunNext := by
  intro s nbits w i h
  obtain ⟨e, he, hd⟩ := decodeTableWord_eq_some h
  have hplace : s.withFetchWord nbits w = placeEncoding s e := by
    simp only [State.withFetchWord, placeWord, he]
  rw [hplace]
  exact step_placeEncoding hd s

end Sys2Proof.Machine

/-! # Blocks alike from outside

Two states are alike when they look the same to the host and agree on the working registers that their phase still reads.
Every step keeps this, so alike states stay alike in a run (R27). A request accepted by two idle blocks with the same
surroundings makes them alike, whatever they held before (R134, R138). -/
namespace Sys2Proof.Machine

/-! ## The relation -/

/-- What is around the block, and the model's draw counter (log 6), is the same. -/
structure SameSurroundings (s t : State) : Prop where
  host : t.host = s.host
  transport : t.transport = s.transport
  lastRead : t.lastRead = s.lastRead
  draws : t.draws = s.draws

/-- The registers that the phase of `s` still reads are the same: in RECEIVING only the bytes of `rx` before `rx_idx` (R18). -/
def SameWork (s t : State) : Prop :=
  match s.phase with
  | .idle => True
  | .sending => t.op = s.op ∧ t.tx = s.tx ∧ t.txIdx = s.txIdx
  | .receiving => t.op = s.op ∧ t.rxIdx = s.rxIdx ∧ ∀ (i : Nat) (h : i < 9), i < s.rxIdx → t.rx[i] = s.rx[i]
  | .validating => t.op = s.op ∧ t.rx = s.rx

/-- The two blocks look the same from outside, and do so after every step (`step_alike`). -/
structure Alike (s t : State) : Prop where
  phase : t.phase = s.phase
  host : t.host = s.host
  draws : t.draws = s.draws
  view : hostView t = hostView s
  work : SameWork s t

/-- The two answers of a step or a run are alike: alike states, or the same stop. -/
inductive ResultsAlike : Result → Result → Prop where
  | next {s t : State} (h : Alike s t) : ResultsAlike (.next s) (.next t)
  | fault (f : Fault) : ResultsAlike (.fault f) (.fault f)
  | refused (r : Refusal) : ResultsAlike (.refused r) (.refused r)

theorem ResultsAlike.sameOutside {r q : Result} (h : ResultsAlike r q) : sameOutside r q := by
  cases h with
  | next h => exact h.view.symm
  | fault f => rfl
  | refused r => rfl

section Fields
variable {s t : State} (h : Alike s t)
include h

theorem Alike.transport : t.transport = s.transport := congrArg HostView.transport h.view
theorem Alike.lastRead : t.lastRead = s.lastRead := congrArg HostView.lastRead h.view
theorem Alike.history : t.history = s.history := congrArg HostView.history h.view
theorem Alike.resultValid : t.resultValid = s.resultValid := congrArg HostView.resultValid h.view
theorem Alike.busy : busy t = busy s := congrArg HostView.busy h.view

theorem Alike.surroundings : SameSurroundings s t := ⟨h.host, h.transport, h.lastRead, h.draws⟩

theorem Alike.sending (hp : s.phase = .sending) : t.op = s.op ∧ t.tx = s.tx ∧ t.txIdx = s.txIdx := by
  simpa only [SameWork, hp] using h.work

theorem Alike.receiving (hp : s.phase = .receiving) :
    t.op = s.op ∧ t.rxIdx = s.rxIdx ∧ ∀ (i : Nat) (h : i < 9), i < s.rxIdx → t.rx[i] = s.rx[i] := by
  simpa only [SameWork, hp] using h.work

theorem Alike.validating (hp : s.phase = .validating) : t.op = s.op ∧ t.rx = s.rx := by
  simpa only [SameWork, hp] using h.work

theorem Alike.withHost (l : List (Option HostAction)) : Alike { s with host := l } { t with host := l } :=
  ⟨h.phase, rfl, h.draws, h.view, h.work⟩

theorem Alike.withTransport (tr : Option Transport) : Alike { s with transport := tr } { t with transport := tr } :=
  ⟨h.phase, h.host, h.draws, congrArg (fun v => { v with transport := tr }) h.view, h.work⟩

theorem Alike.withLastRead (v : PortValue) : Alike { s with lastRead := some v } { t with lastRead := some v } :=
  ⟨h.phase, h.host, h.draws, congrArg (fun w => { w with lastRead := some v }) h.view, h.work⟩

theorem Alike.record (e : Event) : Alike (record e s) (record e t) :=
  ⟨h.phase, h.host, h.draws, congrArg (fun v => { v with history := v.history ++ [e] }) h.view, h.work⟩

end Fields

/-! ## States that are alike whatever they hold besides -/

/-- Where no result is valid, the result port shows none. -/
theorem hostView_of_noResult {s : State} (h : s.resultValid = false) :
    hostView s = { busy := Machine.busy s, resultValid := false, status := none, ppm := none, resp := none,
                   history := s.history, lastRead := s.lastRead, transport := s.transport } := by
  simp [hostView, statusDefined, ppmDefined, respDefined, h]

theorem busy_eq_of_phase_eq {s t : State} (h : t.phase = s.phase) : busy t = busy s := by
  simp only [busy, h]

/-- Without a valid result, only the surroundings, the history and the registers in use count. -/
theorem Alike.of_noResult {s t : State} (hs : s.resultValid = false) (ht : t.resultValid = false)
    (hp : t.phase = s.phase) (ha : SameSurroundings s t) (hh : t.history = s.history) (hw : SameWork s t) : Alike s t := by
  refine ⟨hp, ha.host, ha.draws, ?_, hw⟩
  rw [hostView_of_noResult hs, hostView_of_noResult ht, busy_eq_of_phase_eq hp, ha.transport, ha.lastRead, hh]

/-- In IDLE with the same result registers, the registers of the operation that ended do not count. -/
theorem Alike.of_idle {s t : State} (hs : s.phase = .idle) (ht : t.phase = .idle) (ha : SameSurroundings s t)
    (hh : t.history = s.history) (hv : t.resultValid = s.resultValid) (ho : t.op = s.op) (hst : t.status = s.status)
    (hppm : t.ppm = s.ppm) (hresp : t.resp = s.resp) : Alike s t := by
  refine ⟨ht.trans hs.symm, ha.host, ha.draws, ?_, by simp only [SameWork, hs]⟩
  rw [hostView, hostView, busy_eq_of_phase_eq (ht.trans hs.symm), statusDefined, statusDefined, ppmDefined, ppmDefined,
    respDefined, respDefined, ha.transport, ha.lastRead, hh, hv, ho, hst, hppm, hresp]

/-- A choice between two next states that both blocks make alike. -/
theorem Alike.ite {c d : Prop} [Decidable c] [Decidable d] {s s' t t' : State} (hcd : d ↔ c) (hpos : c → Alike s t)
    (hneg : ¬ c → Alike s' t') : Alike (if c then s else s') (if d then t else t') := by
  by_cases hc : c
  · rw [if_pos hc, if_pos (hcd.mpr hc)]
    exact hpos hc
  · rw [if_neg hc, if_neg (mt hcd.mp hc)]
    exact hneg hc

/-! ## Completion -/

section Completion
variable {s t : State} (h : Alike s t) (ho : t.op = s.op)
include h ho

theorem finishNoValue_alike (k : Kind) : Alike (finishNoValue k s) (finishNoValue k t) := by
  rw [finishNoValue_eq, finishNoValue_eq, h.draws, h.history]
  exact .of_idle rfl rfl ⟨h.host, h.transport, h.lastRead, rfl⟩ rfl rfl ho rfl rfl rfl

theorem finishPpm_alike (p : Packet) : Alike (finishPpm p s) (finishPpm p t) := by
  rw [finishPpm_eq, finishPpm_eq, h.draws, h.history]
  exact .of_idle rfl rfl ⟨h.host, h.transport, h.lastRead, rfl⟩ rfl rfl ho rfl rfl rfl

theorem finishResp_alike (p : Packet) : Alike (finishResp p s) (finishResp p t) := by
  rw [finishResp_eq, finishResp_eq, h.draws, h.history]
  exact .of_idle rfl rfl ⟨h.host, h.transport, h.lastRead, rfl⟩ rfl rfl ho rfl rfl rfl

theorem judge_alike (p : Packet) (ck : Byte) : Alike (judge p ck s) (judge p ck t) := by
  unfold judge
  refine .ite Iff.rfl (fun _ => finishNoValue_alike h ho _) fun _ => ?_
  refine .ite (by rw [ho]) (fun _ => ?_) fun _ => finishResp_alike h ho p
  exact .ite Iff.rfl (fun _ => finishNoValue_alike h ho _) fun _ => finishPpm_alike h ho p

end Completion

/-! ## Transport calls, and the step they belong to -/

theorem transmit_of_not_enabled {p : Packet} {s : State} (h : ¬ (s.phase = .sending ∧ s.txIdx < 9)) :
    transmit p s = .refused .stepNotEnabled := dif_neg h

theorem transmit_of_unbound {p : Packet} {s : State} (hp : s.phase = .sending) (hi : s.txIdx < 9) (ht : s.transport = none) :
    transmit p s = .refused .noTransportBound := by
  rw [transmit, dif_pos ⟨hp, hi⟩]
  simp only [ht]

theorem transmit_of_no_answer {p : Packet} {s : State} {u : Transport} (hp : s.phase = .sending) (hi : s.txIdx < 9)
    (ht : s.transport = some u) (ha : u.sink = []) : transmit p s = .next s := by
  rw [transmit, dif_pos ⟨hp, hi⟩]
  simp only [ht, ha]

theorem receive_of_not_enabled {s : State} (h : ¬ (s.phase = .receiving ∧ s.rxIdx < 9)) :
    receive s = .refused .stepNotEnabled := dif_neg h

theorem receive_of_unbound {s : State} (hp : s.phase = .receiving) (hi : s.rxIdx < 9) (ht : s.transport = none) :
    receive s = .refused .noTransportBound := by
  rw [receive, dif_pos ⟨hp, hi⟩]
  simp only [ht]

theorem receive_of_no_answer {s : State} {u : Transport} (hp : s.phase = .receiving) (hi : s.rxIdx < 9)
    (ht : s.transport = some u) (ha : u.source = []) : receive s = .next s := by
  rw [receive, dif_pos ⟨hp, hi⟩]
  simp only [ht, ha]

theorem onSinkAnswer_ok (b : Byte) (s : State) :
    onSinkAnswer b .ok s = if s.txIdx + 1 = 9 then afterLastSink { record (.sink b .ok) s with txIdx := s.txIdx + 1 }
      else { record (.sink b .ok) s with txIdx := s.txIdx + 1 } := rfl

/-! ## The block's own steps -/

/-- After the ninth byte: reception starts with no byte of `rx` in use, so what the two hold there does not count. -/
theorem afterLastSink_alike {s t : State} (h : Alike s t) (ho : t.op = s.op) : Alike (afterLastSink s) (afterLastSink t) := by
  unfold afterLastSink
  refine .ite (by rw [ho]) (fun _ => ?_) fun _ => finishNoValue_alike h ho _
  exact ⟨rfl, h.host, h.draws, congrArg (fun v => { v with busy := true }) h.view, ho, rfl,
    fun i _ hi => absurd hi i.not_lt_zero⟩

theorem onSinkAnswer_alike {s t : State} (h : Alike s t) (hp : s.phase = .sending) (b : Byte) (a : SinkAnswer) :
    Alike (onSinkAnswer b a s) (onSinkAnswer b a t) := by
  obtain ⟨ho, htx, hi⟩ := h.sending hp
  cases a with
  | fail => exact finishNoValue_alike (h.record _) ho _
  | ok =>
    have hsent : Alike { record (.sink b .ok) s with txIdx := s.txIdx + 1 }
        { record (.sink b .ok) t with txIdx := t.txIdx + 1 } := by
      refine ⟨h.phase, h.host, h.draws, (h.record _).view, ?_⟩
      simp only [SameWork, record_phase, hp]
      exact ⟨ho, htx, congrArg (· + 1) hi⟩
    rw [onSinkAnswer_ok, onSinkAnswer_ok]
    exact .ite (by rw [hi]) (fun _ => afterLastSink_alike hsent ho) fun _ => hsent

theorem transmit_alike {s t : State} (h : Alike s t) (hp : s.phase = .sending) :
    ResultsAlike (transmit s.tx s) (transmit t.tx t) := by
  obtain ⟨-, htx, hi⟩ := h.sending hp
  have hpt : t.phase = .sending := h.phase.trans hp
  by_cases hs : s.txIdx < 9
  case neg =>
    rw [transmit_of_not_enabled fun hc => hs hc.2, transmit_of_not_enabled fun hc => hs (hi ▸ hc.2)]
    exact .refused _
  have ht : t.txIdx < 9 := hi ▸ hs
  cases hu : s.transport with
  | none =>
    rw [transmit_of_unbound hp hs hu, transmit_of_unbound hpt ht (h.transport.trans hu)]
    exact .refused _
  | some u =>
    cases ha : u.sink with
    | nil =>
      rw [transmit_of_no_answer hp hs hu ha, transmit_of_no_answer hpt ht (h.transport.trans hu) ha]
      exact .next h
    | cons a rest =>
      have hbyte : t.tx[t.txIdx] = s.tx[s.txIdx] := getElem_congr htx hi ht
      rw [transmit_of_answer hp hs hu ha, transmit_of_answer hpt ht (h.transport.trans hu) ha, hbyte]
      exact .next (onSinkAnswer_alike (h.withTransport (some { u with sink := rest })) hp _ a)

/-- One more byte in: the bytes of `rx` in use are the earlier ones and the new one. -/
theorem rx_agree_set {p q : Packet} {m n : Nat} (hn : n < 9) (hm : m < 9) (hmn : m = n) (b : Byte)
    (h : ∀ (i : Nat) (hi : i < 9), i < n → q[i] = p[i]) (i : Nat) (hi : i < 9) (hin : i < n + 1) :
    (q.set m b hm)[i] = (p.set n b hn)[i] := by
  subst hmn
  by_cases he : m = i
  · subst he
    simp
  · rw [Vector.getElem_set_ne _ _ he, Vector.getElem_set_ne _ _ he]
    exact h i hi (by omega)

theorem onSourceAnswer_ok (b : Byte) (s : State) (h : s.rxIdx < 9) :
    onSourceAnswer (.ok b) s h =
      if s.rxIdx = 0 ∧ b ≠ sentinel then
        finishNoValue .invalidStartByte (record (.source (.ok b)) { s with rx := s.rx.set s.rxIdx b h })
      else if s.rxIdx + 1 = 9 then
        { record (.source (.ok b)) { s with rx := s.rx.set s.rxIdx b h } with rxIdx := s.rxIdx + 1, phase := .validating }
      else { record (.source (.ok b)) { s with rx := s.rx.set s.rxIdx b h } with rxIdx := s.rxIdx + 1 } := rfl

/-- Once nine bytes are in, all of `rx` is in use, so the two hold the same response. -/
theorem onSourceAnswer_alike {s t : State} (h : Alike s t) (hp : s.phase = .receiving) (a : SourceAnswer)
    (hs : s.rxIdx < 9) (ht : t.rxIdx < 9) : Alike (onSourceAnswer a s hs) (onSourceAnswer a t ht) := by
  obtain ⟨ho, hi, hrx⟩ := h.receiving hp
  cases a with
  | fail => exact finishNoValue_alike (h.record _) ho _
  | ok b =>
    have hbytes := rx_agree_set hs ht hi b hrx
    have hstored : Alike { s with rx := s.rx.set s.rxIdx b hs } { t with rx := t.rx.set t.rxIdx b ht } := by
      refine ⟨h.phase, h.host, h.draws, h.view, ?_⟩
      simp only [SameWork, hp]
      exact ⟨ho, hi, fun i hi9 hin => hbytes i hi9 (Nat.lt_succ_of_lt hin)⟩
    have hview := (hstored.record (.source (.ok b))).view
    rw [onSourceAnswer_ok, onSourceAnswer_ok]
    refine .ite (by rw [hi]) (fun _ => finishNoValue_alike (hstored.record _) ho _) fun _ =>
      .ite (by rw [hi]) (fun h9 => ?_) fun _ => ?_
    · refine ⟨rfl, h.host, h.draws, congrArg (fun v => { v with busy := true }) hview, ho, Vector.ext fun i hi9 => ?_⟩
      exact hbytes i hi9 (h9 ▸ hi9)
    · refine ⟨h.phase, h.host, h.draws, hview, ?_⟩
      simp only [SameWork, record_phase, hp]
      exact ⟨ho, congrArg (· + 1) hi, hbytes⟩

theorem receive_alike {s t : State} (h : Alike s t) (hp : s.phase = .receiving) : ResultsAlike (receive s) (receive t) := by
  obtain ⟨-, hi, -⟩ := h.receiving hp
  have hpt : t.phase = .receiving := h.phase.trans hp
  by_cases hs : s.rxIdx < 9
  case neg =>
    rw [receive_of_not_enabled fun hc => hs hc.2, receive_of_not_enabled fun hc => hs (hi ▸ hc.2)]
    exact .refused _
  have ht : t.rxIdx < 9 := hi ▸ hs
  cases hu : s.transport with
  | none =>
    rw [receive_of_unbound hp hs hu, receive_of_unbound hpt ht (h.transport.trans hu)]
    exact .refused _
  | some u =>
    cases ha : u.source with
    | nil =>
      rw [receive_of_no_answer hp hs hu ha, receive_of_no_answer hpt ht (h.transport.trans hu) ha]
      exact .next h
    | cons a rest =>
      rw [receive_of_answer hp hs hu ha, receive_of_answer hpt ht (h.transport.trans hu) ha]
      exact .next (onSourceAnswer_alike (h.withTransport (some { u with source := rest })) hp a hs ht)

theorem validate_alike {s t : State} (h : Alike s t) (hp : s.phase = .validating) :
    ResultsAlike (validate s.rx s) (validate t.rx t) := by
  obtain ⟨ho, hrx⟩ := h.validating hp
  have hsummed (b : Byte) : Alike { s with acc := b } { t with acc := b } := ⟨h.phase, h.host, h.draws, h.view, h.work⟩
  rw [hrx, validate_eq hp, validate_eq (h.phase.trans hp)]
  exact .next (judge_alike (hsummed (spanSum s.rx)) ho _ _)

theorem blockStep_alike {s t : State} (h : Alike s t) : ResultsAlike (blockStep s) (blockStep t) := by
  have hpt := h.phase
  cases hp : s.phase <;> rw [hp] at hpt
  case idle =>
    simp only [blockStep, hp, hpt]
    exact .next h
  case sending =>
    rw [blockStep_of_sending hp, blockStep_of_sending hpt]
    exact transmit_alike h hp
  case receiving =>
    rw [blockStep_of_receiving hp, blockStep_of_receiving hpt]
    exact receive_alike h hp
  case validating =>
    rw [blockStep_of_validating hp, blockStep_of_validating hpt]
    exact validate_alike h hp

/-! ## The host's actions -/

/-- An acceptance by two blocks in the same phase with the same surroundings. What acceptance
writes (`act`) must itself make the two alike. -/
theorem acceptWhenIdle_alike {act : State → State} {s t : State} (hp : t.phase = s.phase) (ht : t.transport = s.transport)
    (hact : Alike { act s with resultValid := false, history := [] } { act t with resultValid := false, history := [] }) :
    ResultsAlike (acceptWhenIdle act s) (acceptWhenIdle act t) := by
  unfold acceptWhenIdle
  rw [busy_eq_of_phase_eq hp, ht]
  split
  · exact .refused _
  · split
    · exact .refused _
    · exact .next hact

/-- A sending request writes its latches and frames its packet: the whole of `tx` and `tx_idx` are its own. -/
theorem acceptSending_alike {latch : State → State} {s t : State} (code : Byte) (p : Payload) (hp : t.phase = s.phase)
    (ht : t.transport = s.transport) (hl : SameSurroundings (latch s) (latch t)) (ho : (latch t).op = (latch s).op) :
    ResultsAlike (acceptWhenIdle (fun s => frameTx code p (latch s)) s)
      (acceptWhenIdle (fun s => frameTx code p (latch s)) t) := by
  refine acceptWhenIdle_alike hp ht ?_
  rw [frameTx_eq, frameTx_eq]
  exact .of_noResult rfl rfl rfl ⟨hl.host, hl.transport, hl.lastRead, hl.draws⟩ rfl ⟨ho, rfl, rfl⟩

/-- RECV_RESP starts with no byte of `rx` in use. -/
theorem execRecvResp_alike {s t : State} (hp : t.phase = s.phase) (h : SameSurroundings s t) :
    ResultsAlike (execRecvResp s) (execRecvResp t) := by
  refine acceptWhenIdle_alike hp h.transport ?_
  exact .of_noResult rfl rfl rfl ⟨h.host, h.transport, h.lastRead, h.draws⟩ rfl
    ⟨rfl, rfl, fun i _ hi => absurd hi i.not_lt_zero⟩

/-- A request to two blocks in the same phase with the same surroundings, whatever else they hold (R134, R138). -/
theorem exec_request_alike {s t : State} (hp : t.phase = s.phase) (h : SameSurroundings s t) (r : Request) :
    ResultsAlike (exec (decodeRequest r) s) (exec (decodeRequest r) t) := by
  obtain ⟨hhost, htr, hread, hdraws⟩ := h
  unfold decodeRequest
  split
  · exact acceptSending_alike (latch := fun s => { s with op := .readCo2 }) _ _ hp htr ⟨hhost, htr, hread, hdraws⟩ rfl
  split
  · exact acceptSending_alike (latch := fun s => { s with op := .setAbc, reqEn := r.en }) _ _ hp htr
      ⟨hhost, htr, hread, hdraws⟩ rfl
  split
  · exact acceptSending_alike (latch := fun s => { s with op := .sendCmd, reqCode := r.code, reqPayload := r.payload }) _ _ hp
      htr ⟨hhost, htr, hread, hdraws⟩ rfl
  · exact execRecvResp_alike hp ⟨hhost, htr, hread, hdraws⟩

/-- What each read of the result port gives is told by the view. -/
theorem readStatus_eq_of_view (s : State) :
    readStatus s = (hostView s).status.elim (.error .resultNotValid)
      fun v => if v.toNat < 6 then .ok (.status v) else .error .unusedStatusCode := by
  simp only [readStatus, hostView]
  split <;> rfl

theorem readPpm_eq_of_view (s : State) :
    readPpm s = (hostView s).ppm.elim (.error .resultNotValid) fun v => .ok (.ppm v) := by
  simp only [readPpm, hostView]
  split <;> rfl

theorem readResp_eq_of_view (s : State) :
    readResp s = (hostView s).resp.elim (.error .resultNotValid) fun v => .ok (.resp v) := by
  simp only [readResp, hostView]
  split <;> rfl

theorem hostRead_alike {s t : State} (h : Alike s t) (r : Except Fault PortValue) :
    ResultsAlike (hostRead r s) (hostRead r t) := by
  cases r with
  | ok v => exact .next (h.withLastRead v)
  | error f => exact .fault f

theorem hostBind_alike {s t : State} (h : Alike s t) (u : Transport) : ResultsAlike (hostBind u s) (hostBind u t) := by
  rw [hostBind, hostBind, h.busy]
  split
  · exact .refused _
  · exact .next (h.withTransport _)

/-- What a reset leaves of the transport, and what it draws, depends on the phase and the surroundings only (R136). -/
theorem abandonCall_sameSurroundings {s t : State} (hp : t.phase = s.phase) (h : SameSurroundings s t) :
    SameSurroundings (abandonCall s) (abandonCall t) := by
  obtain ⟨hhost, htr, hread, hdraws⟩ := h
  unfold abandonCall
  rw [hp, htr, hdraws]
  split
  · exact ⟨hhost, htr, hread, hdraws⟩
  · exact ⟨hhost, rfl, hread, rfl⟩
  · exact ⟨hhost, rfl, hread, rfl⟩
  · exact ⟨hhost, htr, hread, hdraws⟩

theorem hostReset_history (s : State) : (hostReset s).history = s.history := by
  obtain ⟨tr, d, heq, -⟩ := hostReset_eq s
  rw [heq]

/-- A reset leaves no valid result and no register in use. -/
theorem hostReset_alike {s t : State} (h : Alike s t) : Alike (hostReset s) (hostReset t) := by
  obtain ⟨hhost, htr, hread, hdraws⟩ := abandonCall_sameSurroundings h.phase h.surroundings
  have hhist : (hostReset t).history = (hostReset s).history := by rw [hostReset_history, hostReset_history, h.history]
  exact .of_noResult rfl rfl rfl ⟨hhost, htr, hread, hdraws⟩ hhist trivial

theorem actionStep_alike {s t : State} (h : Alike s t) (a : HostAction) :
    ResultsAlike (actionStep a s) (actionStep a t) := by
  cases a with
  | request r => exact .refused _
  | bind u => exact hostBind_alike h u
  | reset => exact .next (hostReset_alike h)
  | readBusy =>
    rw [actionStep, actionStep, h.busy]
    exact hostRead_alike h _
  | readResultValid =>
    rw [actionStep, actionStep, h.resultValid]
    exact hostRead_alike h _
  | readStatus =>
    rw [actionStep, actionStep, readStatus_eq_of_view t, h.view, ← readStatus_eq_of_view s]
    exact hostRead_alike h _
  | readPpm =>
    rw [actionStep, actionStep, readPpm_eq_of_view t, h.view, ← readPpm_eq_of_view s]
    exact hostRead_alike h _
  | readResp =>
    rw [actionStep, actionStep, readResp_eq_of_view t, h.view, ← readResp_eq_of_view s]
    exact hostRead_alike h _

/-! ## Steps and runs -/

/-- Every step of alike blocks ends alike. -/
theorem step_alike {s t : State} (h : Alike s t) : ResultsAlike (step s) (step t) := by
  obtain ⟨hs, heq⟩ | ⟨rest, hs, heq⟩ | ⟨r, rest, hs, heq⟩ | ⟨a, rest, ha, hs, heq⟩ := step_cases s
  · rw [heq, step_of_host_nil (h.host.trans hs)]
    exact blockStep_alike h
  · rw [heq, step_of_host_none (h.host.trans hs)]
    exact blockStep_alike (h.withHost rest)
  · rw [heq, step_of_host_request (h.host.trans hs)]
    exact exec_request_alike (h.withHost rest).phase (h.withHost rest).surroundings r
  · rw [heq, step_of_host_action ha (h.host.trans hs)]
    exact actionStep_alike (h.withHost rest) a

/-- A run goes on from its first step. -/
theorem run_succ_alike {s t : State} {n : Nat} (hstep : ResultsAlike (step s) (step t))
    (hrun : ∀ {s' t' : State}, Alike s' t' → ResultsAlike (core.run n s') (core.run n t')) :
    ResultsAlike (core.run (n + 1) s) (core.run (n + 1) t) := by
  generalize hs : step s = rs, ht : step t = rt at hstep
  cases hstep with
  | next h =>
    rw [run_succ_of_next hs, run_succ_of_next ht]
    exact hrun h
  | fault f =>
    rw [run_succ_of_fault hs, run_succ_of_fault ht]
    exact .fault f
  | refused r =>
    rw [run_succ_of_refused hs, run_succ_of_refused ht]
    exact .refused r

/-- Alike blocks run alike, for any number of steps. -/
theorem run_alike {s t : State} (h : Alike s t) (n : Nat) : ResultsAlike (core.run n s) (core.run n t) := by
  induction n generalizing s t with
  | zero => exact .next h
  | succ n ih => exact run_succ_alike (step_alike h) ih

/-- Settles O53: the request's step makes the two blocks alike, and from then on they run alike. -/
theorem freshAndUsedBlocksGiveTheSameResults : Obligations.FreshAndUsedBlocksGiveTheSameResults := by
  intro s t r rest n hs ht hhost hsame htr hread hdraws
  have hsurr : SameSurroundings { s with host := rest } { t with host := rest } := ⟨rfl, htr, hread, hdraws⟩
  have haccept : ResultsAlike (step s) (step t) := by
    rw [step_of_host_request hhost, step_of_host_request (hsame.trans hhost)]
    refine exec_request_alike ?_ hsurr r
    exact ht.trans hs.symm
  exact (run_succ_alike haccept fun h => run_alike h n).sameOutside

end Sys2Proof.Machine

/-! # The invariant

It holds at reset and every step keeps it. Of a state in a given phase it says that phase's facts only, so each case of a step
is given by its own constructor lemma (`StateInv.of_idle` and the like). -/
namespace Sys2Proof.Machine

/-- A step that goes on is the block's own, a request's acceptance, or another action of the host. -/
theorem step_next {s s' : State} (h : step s = .next s') :
    (∃ l, blockStep { s with host := l } = .next s') ∨
    (∃ r rest, s.host = some (.request r) :: rest ∧ exec (decodeRequest r) { s with host := rest } = .next s') ∨
    (∃ a rest, s.host = some a :: rest ∧ actionStep a { s with host := rest } = .next s') := by
  obtain ⟨-, heq⟩ | ⟨rest, -, heq⟩ | ⟨r, rest, hh, heq⟩ | ⟨a, rest, -, hh, heq⟩ := step_cases s <;> rw [heq] at h
  · exact .inl ⟨s.host, h⟩
  · exact .inl ⟨rest, h⟩
  · exact .inr (.inl ⟨r, rest, hh, h⟩)
  · exact .inr (.inr ⟨a, rest, hh, h⟩)

/-! ## One phase's part is enough -/

/-- What every running operation has: its indices in range, a transport, and no valid result (R14, R139, R21). -/
structure Running (s : State) : Prop where
  txBound : s.txIdx ≤ 9
  rxBound : s.rxIdx ≤ 9
  bound : s.transport ≠ none
  noResult : s.resultValid = false

theorem StateInv.running {s : State} (h : StateInv s) (hp : s.phase ≠ .idle) : Running s :=
  ⟨h.txBound, h.rxBound, h.busyBound ((busy_eq_true s).mpr hp), h.busyNoResult ((busy_eq_true s).mpr hp)⟩

/-- In IDLE only a valid result has to be accounted for. -/
theorem StateInv.of_idle {s : State} (hp : s.phase = .idle) (htx : s.txIdx ≤ 9) (hrx : s.rxIdx ≤ 9)
    (hc : s.resultValid = true → s.tx = commandOf s ∧ ∃ k : Kind, s.status = k.code ∧ completedWith s k) : StateInv s where
  txBound := htx
  rxBound := hrx
  busyBound hb := absurd hp ((busy_eq_true s).mp hb)
  busyNoResult hb := absurd hp ((busy_eq_true s).mp hb)
  sending h := nomatch hp.symm.trans h
  receiving h := nomatch hp.symm.trans h
  validating h := nomatch hp.symm.trans h
  completed := hc

/-- The invariant's part on SENDING (R80, R82). -/
def SendingPart (s : State) : Prop :=
  s.txIdx < 9 ∧ s.op ≠ .recvResp ∧ s.tx = commandOf s ∧ s.history = sinkEvents s.tx s.txIdx

/-- The invariant's part on RECEIVING (R90, R92). -/
def ReceivingPart (s : State) : Prop :=
  s.rxIdx < 9 ∧ receives s.op ∧ s.tx = commandOf s ∧ (0 < s.rxIdx → s.rx[0] = sentinel) ∧
    s.history = sentBefore s ++ sourceEvents s.rx s.rxIdx

/-- The invariant's part on VALIDATING (R97). -/
def ValidatingPart (s : State) : Prop :=
  s.rxIdx = 9 ∧ receives s.op ∧ s.tx = commandOf s ∧ s.rx[0] = sentinel ∧ s.history = sentBefore s ++ sourceEvents s.rx 9

/-- A running operation has to account for its own phase only. -/
theorem StateInv.of_running {s : State} (h : Running s) (hs : s.phase = .sending → SendingPart s)
    (hr : s.phase = .receiving → ReceivingPart s) (hv : s.phase = .validating → ValidatingPart s) : StateInv s where
  txBound := h.txBound
  rxBound := h.rxBound
  busyBound _ := h.bound
  busyNoResult _ := h.noResult
  sending := hs
  receiving := hr
  validating := hv
  completed hc := nomatch hc.symm.trans h.noResult

theorem StateInv.of_sending {s : State} (h : Running s) (hp : s.phase = .sending) (hs : SendingPart s) : StateInv s :=
  .of_running h (fun _ => hs) (fun hr => nomatch hp.symm.trans hr) fun hv => nomatch hp.symm.trans hv

theorem StateInv.of_receiving {s : State} (h : Running s) (hp : s.phase = .receiving) (hr : ReceivingPart s) : StateInv s :=
  .of_running h (fun hs => nomatch hp.symm.trans hs) (fun _ => hr) fun hv => nomatch hp.symm.trans hv

theorem StateInv.of_validating {s : State} (h : Running s) (hp : s.phase = .validating) (hv : ValidatingPart s) : StateInv s :=
  .of_running h (fun hs => nomatch hp.symm.trans hs) (fun hr => nomatch hp.symm.trans hr) fun _ => hv

/-- An idle block without a valid result has nothing to account for but its indices. -/
theorem StateInv.of_noResult {s : State} (hp : s.phase = .idle) (htx : s.txIdx ≤ 9) (hrx : s.rxIdx ≤ 9)
    (hv : s.resultValid = false) : StateInv s :=
  .of_idle hp htx hrx fun h => nomatch hv.symm.trans h

/-- The invariant asks for a transport, and not which answers it will give. -/
theorem StateInv.withTransport {s : State} (h : StateInv s) (t : Transport) : StateInv { s with transport := some t } :=
  ⟨h.txBound, h.rxBound, fun _ => Option.some_ne_none t, h.busyNoResult, h.sending, h.receiving, h.validating, h.completed⟩

theorem StateInv.withAcc {s : State} (h : StateInv s) (b : Byte) : StateInv { s with acc := b } :=
  ⟨h.txBound, h.rxBound, h.busyBound, h.busyNoResult, h.sending, h.receiving, h.validating, h.completed⟩

theorem StateInv.withLastRead {s : State} (h : StateInv s) (v : Option PortValue) : StateInv { s with lastRead := v } :=
  ⟨h.txBound, h.rxBound, h.busyBound, h.busyNoResult, h.sending, h.receiving, h.validating, h.completed⟩

/-! ## Completion -/

/-- A completion that defines no value keeps the invariant where the outcome accounts for the operation. -/
theorem finishNoValue_inv {k : Kind} {s : State} (htx : s.txIdx ≤ 9) (hrx : s.rxIdx ≤ 9) (hcmd : s.tx = commandOf s)
    (hc : completedWith (finishNoValue k s) k) : StateInv (finishNoValue k s) :=
  .of_idle rfl htx hrx fun _ => ⟨hcmd, k, rfl, hc⟩

/-- A call that ends the operation leaves its own event and the completion. -/
theorem finishNoValue_record_history (k : Kind) (e : Event) (s : State) :
    (finishNoValue k (record e s)).history = s.history ++ [e, .complete k] :=
  List.append_assoc s.history [e] [.complete k]

/-- SET_ABC and SEND_CMD complete with NONE once their nine bytes are sent (R86). -/
theorem completedWith_none_of_sent {s : State} (hread : s.op ≠ .readCo2) (hrecv : s.op ≠ .recvResp)
    (hh : s.history = sinkEvents s.tx 9 ++ [.complete .none]) : completedWith s .none := by
  cases ho : s.op with
  | readCo2 => exact absurd ho hread
  | setAbc => simpa only [completedWith, ho] using hh
  | sendCmd => simpa only [completedWith, ho] using hh
  | recvResp => exact absurd ho hrecv

/-! ## The block's own steps -/

/-- An answered sink call: the bytes before `tx_idx` and the one just sent are the bytes before the next index. -/
theorem onSinkAnswer_inv {s : State} (h : StateInv s) (hp : s.phase = .sending) (hi : s.txIdx < 9) (a : SinkAnswer) :
    StateInv (onSinkAnswer s.tx[s.txIdx] a s) := by
  obtain ⟨-, hop, hcmd, hhist⟩ := h.sending hp
  have hrun : Running s := h.running (by simp [hp])
  have hsent : s.history ++ [.sink s.tx[s.txIdx] .ok] = sinkEvents s.tx (s.txIdx + 1) := by
    rw [hhist, sinkEvents_succ _ _ hi]
  obtain ⟨-, heq⟩ | ⟨-, h9, heq⟩ | ⟨-, h9, hread, heq⟩ | ⟨-, h9, hread, heq⟩ :=
    onSinkAnswer_cases s.tx[s.txIdx] a s <;> rw [heq]
  case inl =>
    refine finishNoValue_inv hrun.txBound hrun.rxBound hcmd ⟨hop, s.txIdx, hi, ?_⟩
    exact (finishNoValue_record_history _ _ s).trans (congrArg (· ++ [_, _]) hhist)
  case inr.inl =>
    have hlt : s.txIdx + 1 < 9 := by omega
    exact .of_sending ⟨hlt.le, hrun.rxBound, hrun.bound, hrun.noResult⟩ hp ⟨hlt, hop, hcmd, hsent⟩
  case inr.inr.inl =>
    refine .of_receiving ⟨le_rfl, Nat.zero_le 9, hrun.bound, hrun.noResult⟩ rfl
      ⟨Nat.zero_lt_succ 8, .inl hread, hcmd, fun h0 => absurd h0 (Nat.lt_irrefl 0), ?_⟩
    rw [h9] at hsent
    simp [sourceEvents_zero, sentBefore, hread, hsent]
  case inr.inr.inr =>
    refine finishNoValue_inv le_rfl hrun.rxBound hcmd (completedWith_none_of_sent hread hop ?_)
    rw [h9] at hsent
    simp [finishNoValue, hsent]

/-- One more byte received: the bytes before the next index. -/
theorem sourceEvents_set_succ (p : Packet) (n : Nat) (h : n < 9) (b : Byte) :
    sourceEvents (p.set n b) (n + 1) = sourceEvents p n ++ [.source (.ok b)] := by
  rw [sourceEvents_succ _ _ h, sourceEvents_set, Vector.getElem_set_self]

/-- The first byte in stays the start marker when later bytes come in (R92). -/
theorem firstByte_set {p : Packet} {n : Nat} (h : n < 9) {b : Byte} (hfirst : 0 < n → p[0] = sentinel)
    (hb : n = 0 → b = sentinel) : (p.set n b)[0] = sentinel := by
  by_cases hn : n = 0
  · subst hn
    rw [Vector.getElem_set_self, hb rfl]
  · rw [Vector.getElem_set_ne _ _ hn, hfirst (Nat.pos_of_ne_zero hn)]

/-- An answered source call: the bytes before `rx_idx` and the one just stored are the bytes before the next index. -/
theorem onSourceAnswer_inv {s : State} (h : StateInv s) (hp : s.phase = .receiving) (hi : s.rxIdx < 9) (a : SourceAnswer) :
    StateInv (onSourceAnswer a s hi) := by
  obtain ⟨-, hrecv, hcmd, hfirst, hhist⟩ := h.receiving hp
  have hrun : Running s := h.running (by simp [hp])
  have hstored (b : Byte) :
      s.history ++ [.source (.ok b)] = sentBefore s ++ sourceEvents (s.rx.set s.rxIdx b) (s.rxIdx + 1) := by
    rw [sourceEvents_set_succ _ _ hi, hhist, List.append_assoc]
  obtain ⟨-, heq⟩ | ⟨b, -, h0, hb, heq⟩ | ⟨b, -, hb, h9, heq⟩ | ⟨b, -, hb, h9, heq⟩ :=
    onSourceAnswer_cases a s hi <;> rw [heq]
  case inl =>
    refine finishNoValue_inv hrun.txBound hrun.rxBound hcmd ⟨hrecv, s.rxIdx, hi, hfirst, ?_⟩
    exact (finishNoValue_record_history _ _ s).trans (congrArg (· ++ [_, _]) hhist)
  case inr.inl =>
    refine finishNoValue_inv hrun.txBound hrun.rxBound hcmd ⟨hrecv, b, hb, ?_⟩
    rw [h0, sourceEvents_zero, List.append_nil] at hhist
    exact (finishNoValue_record_history _ _ _).trans (congrArg (· ++ [_, _]) hhist)
  case inr.inr.inl =>
    exact .of_validating ⟨hrun.txBound, h9.le, hrun.bound, hrun.noResult⟩ rfl
      ⟨h9, hrecv, hcmd, firstByte_set hi hfirst hb, (hstored b).trans (by rw [h9]; rfl)⟩
  case inr.inr.inr =>
    have hlt : s.rxIdx + 1 < 9 := by omega
    exact .of_receiving ⟨hrun.txBound, hlt.le, hrun.bound, hrun.noResult⟩ hp
      ⟨hlt, hrecv, hcmd, fun _ => firstByte_set hi hfirst hb, hstored b⟩

/-- A judgement of the nine bytes received: whatever it finds, the outcome accounts for them. -/
theorem judge_inv {s : State} (h : StateInv s) (hp : s.phase = .validating) : StateInv (judge s.rx (ck8 s.rx) s) := by
  obtain ⟨-, hrecv, hcmd, hfirst, hhist⟩ := h.validating hp
  have hwhole (k : Kind) : s.history ++ [.complete k] = sentBefore s ++ sourceEvents s.rx 9 ++ [.complete k] := by rw [hhist]
  obtain ⟨h8, heq⟩ | ⟨h8, ho, h1, heq⟩ | ⟨h8, ho, h1, heq⟩ | ⟨h8, ho, heq⟩ :=
    judge_cases s.rx (ck8 s.rx) s <;> rw [heq]
  case inl => exact finishNoValue_inv h.txBound h.rxBound hcmd ⟨hrecv, ⟨hfirst, hwhole _⟩, h8⟩
  case inr.inl => exact finishNoValue_inv h.txBound h.rxBound hcmd ⟨ho, ⟨hfirst, hwhole _⟩, h8, h1⟩
  case inr.inr.inl =>
    refine .of_idle rfl h.txBound h.rxBound fun _ => ⟨hcmd, .none, rfl, ?_⟩
    have ho : (finishPpm s.rx s).op = .readCo2 := ho
    simp only [completedWith, ho]
    exact ⟨⟨hfirst, hwhole _⟩, h8, h1, rfl⟩
  case inr.inr.inr =>
    refine .of_idle rfl h.txBound h.rxBound fun _ => ⟨hcmd, .none, rfl, ?_⟩
    have ho : (finishResp s.rx s).op = .recvResp := hrecv.resolve_left ho
    simp only [completedWith, ho]
    exact ⟨⟨hfirst, hwhole _⟩, h8, rfl⟩

theorem blockStep_inv {s s' : State} (h : StateInv s) (hs : blockStep s = .next s') : StateInv s' := by
  obtain rfl | ⟨hp, hi, t, a, rest, -, -, rfl⟩ | ⟨hp, hi, t, a, rest, -, -, rfl⟩ | ⟨hp, rfl⟩ := blockStep_next hs
  · exact h
  · exact onSinkAnswer_inv (h.withTransport _) hp hi a
  · exact onSourceAnswer_inv (h.withTransport _) hp hi a
  · exact judge_inv (h.withAcc (spanSum s.rx)) hp

/-! ## The host's actions -/

/-- An accepted request starts with its own packet in `tx`, or receiving, and an empty history. -/
theorem exec_request_inv {r : Request} {s s' : State} (h : StateInv s) (hs : exec (decodeRequest r) s = .next s') :
    StateInv s' := by
  obtain ⟨-, ht, ⟨-, rfl⟩ | ⟨-, rfl⟩ | ⟨-, rfl⟩ | ⟨-, rfl⟩⟩ := exec_request_next hs
  case inr.inr.inr =>
    exact .of_receiving ⟨h.txBound, Nat.zero_le 9, ht, rfl⟩ rfl
      ⟨Nat.zero_lt_succ 8, .inr rfl, rfl, fun h0 => absurd h0 (Nat.lt_irrefl 0), (sourceEvents_zero s.rx).symm⟩
  all_goals
    exact .of_sending ⟨Nat.zero_le 9, h.rxBound, ht, rfl⟩ rfl ⟨Nat.zero_lt_succ 8, nofun, rfl, (sinkEvents_zero _).symm⟩

theorem hostReset_inv (s : State) : StateInv (hostReset s) := .of_noResult rfl (Nat.zero_le 9) (Nat.zero_le 9) rfl

theorem actionStep_inv {a : HostAction} {s s' : State} (h : StateInv s) (hs : actionStep a s = .next s') : StateInv s' := by
  obtain ⟨-, rfl⟩ | ⟨t, -, -, rfl⟩ | ⟨v, rfl⟩ := actionStep_next hs
  · exact hostReset_inv s
  · exact h.withTransport t
  · exact h.withLastRead _

/-- Settles O39: a step is the block's own, an acceptance, or another action of the host, and each keeps the invariant. -/
theorem everyStepKeepsTheInvariant : Obligations.EveryStepKeepsTheInvariant := by
  intro s s' h hs
  obtain ⟨l, hl⟩ | ⟨r, rest, -, hr⟩ | ⟨a, rest, -, ha⟩ := step_next hs
  · exact blockStep_inv (StateInv_host h l) hl
  · exact exec_request_inv (StateInv_host h rest) hr
  · exact actionStep_inv (StateInv_host h rest) ha

/-- Settles O38: after reset the block is idle and has no result to account for. -/
theorem invariantHoldsAtReset : Obligations.InvariantHoldsAtReset :=
  ⟨rfl, rfl, rfl, .of_noResult rfl (Nat.zero_le 9) (Nat.zero_le 9) rfl⟩

end Sys2Proof.Machine

/-! # Idle blocks alike from outside -/
namespace Sys2Proof.Machine

/-- Settles O44: two idle blocks that look the same are alike, so they run alike. -/
theorem workingStateOfAnIdleBlockHasNoLaterEffect : Obligations.WorkingStateOfAnIdleBlockHasNoLaterEffect := by
  intro s t n hs ht hview hhost hdraws
  have h : Alike s t := ⟨ht.trans hs.symm, hhost.symm, hdraws.symm, hview.symm, by simp only [SameWork, hs]⟩
  exact (run_alike h n).sameOutside

end Sys2Proof.Machine

/-! # Only a completion writes the status, only an acceptance the latches -/
namespace Sys2Proof.Machine

/-! ## The status -/

/-- After at most one call the operation of `s` completes: its outcome is recorded, written to `status` and made valid (R117). -/
def Completes (s s' : State) : Prop :=
  ∃ k h, h.length ≤ 1 ∧ s'.history = s.history ++ h ++ [.complete k] ∧ s'.status = k.code ∧ s'.resultValid = true ∧
    s'.phase = .idle

theorem finishNoValue_completes (k : Kind) (s : State) : Completes s (finishNoValue k s) :=
  ⟨k, [], Nat.zero_le 1, by rw [List.append_nil]; rfl, rfl, rfl, rfl⟩

theorem finishNoValue_record_completes (k : Kind) (e : Event) (s : State) : Completes s (finishNoValue k (record e s)) :=
  ⟨k, [e], le_rfl, rfl, rfl, rfl, rfl⟩

theorem judge_completes (p : Packet) (ck : Byte) (s : State) : Completes s (judge p ck s) := by
  obtain ⟨-, heq⟩ | ⟨-, -, -, heq⟩ | ⟨-, -, -, heq⟩ | ⟨-, -, heq⟩ := judge_cases p ck s <;> rw [heq]
  · exact finishNoValue_completes _ s
  · exact finishNoValue_completes _ s
  · exact ⟨.none, [], Nat.zero_le 1, by rw [List.append_nil]; rfl, rfl, rfl, rfl⟩
  · exact ⟨.none, [], Nat.zero_le 1, by rw [List.append_nil]; rfl, rfl, rfl, rfl⟩

theorem onSinkAnswer_status (b : Byte) (a : SinkAnswer) (s : State) :
    (onSinkAnswer b a s).status = s.status ∨ Completes s (onSinkAnswer b a s) := by
  obtain ⟨-, heq⟩ | ⟨-, -, heq⟩ | ⟨-, -, -, heq⟩ | ⟨-, -, -, heq⟩ := onSinkAnswer_cases b a s <;> rw [heq]
  · exact .inr (finishNoValue_record_completes _ _ s)
  · exact .inl rfl
  · exact .inl rfl
  · exact .inr (finishNoValue_record_completes _ _ { s with txIdx := 9 })

theorem onSourceAnswer_status (a : SourceAnswer) (s : State) (hi : s.rxIdx < 9) :
    (onSourceAnswer a s hi).status = s.status ∨ Completes s (onSourceAnswer a s hi) := by
  obtain ⟨-, heq⟩ | ⟨b, -, -, -, heq⟩ | ⟨b, -, -, -, heq⟩ | ⟨b, -, -, -, heq⟩ := onSourceAnswer_cases a s hi <;> rw [heq]
  · exact .inr (finishNoValue_record_completes _ _ s)
  · exact .inr (finishNoValue_record_completes _ _ { s with rx := s.rx.set s.rxIdx b hi })
  · exact .inl rfl
  · exact .inl rfl

theorem blockStep_status {s s' : State} (h : blockStep s = .next s') :
    s'.status = s.status ∨ (s.phase ≠ .idle ∧ Completes s s') := by
  obtain rfl | ⟨hp, hi, t, a, rest, -, -, rfl⟩ | ⟨hp, hi, t, a, rest, -, -, rfl⟩ | ⟨hp, rfl⟩ := blockStep_next h
  · exact .inl rfl
  · exact (onSinkAnswer_status _ a _).imp_right fun hc => ⟨by simp [hp], hc⟩
  · exact (onSourceAnswer_status a { s with transport := some { t with source := rest } } hi).imp_right
      fun hc => ⟨by simp [hp], hc⟩
  · exact .inr ⟨by simp [hp], judge_completes _ _ _⟩

theorem exec_request_status {r : Request} {s s' : State} (h : exec (decodeRequest r) s = .next s') :
    s'.status = s.status := by
  obtain ⟨-, -, ⟨-, rfl⟩ | ⟨-, rfl⟩ | ⟨-, rfl⟩ | ⟨-, rfl⟩⟩ := exec_request_next h <;> rfl

/-- A reset does not write `status` (R136), and neither does a binding or a read. -/
theorem actionStep_status {a : HostAction} {s s' : State} (h : actionStep a s = .next s') : s'.status = s.status := by
  obtain ⟨-, rfl⟩ | ⟨t, -, -, rfl⟩ | ⟨v, rfl⟩ := actionStep_next h
  · obtain ⟨tr, d, heq, -⟩ := hostReset_eq s
    rw [heq]
  · rfl
  · rfl

/-- Settles O31: of the steps, only a call that ends the operation and the validation write `status`, and both complete. -/
theorem onlyCompletionWritesStatus : Obligations.OnlyCompletionWritesStatus := by
  intro s s' hs
  obtain ⟨l, hl⟩ | ⟨r, rest, -, hr⟩ | ⟨a, rest, -, ha⟩ := step_next hs
  · exact blockStep_status (s := { s with host := l }) hl
  · exact .inl (exec_request_status (s := { s with host := rest }) hr)
  · exact .inl (actionStep_status (s := { s with host := rest }) ha)

/-! ## The latches -/

/-- The latched operation and operands stay as they are (R16). -/
def KeepsLatches (s s' : State) : Prop :=
  s'.op = s.op ∧ s'.reqEn = s.reqEn ∧ s'.reqCode = s.reqCode ∧ s'.reqPayload = s.reqPayload

theorem onSinkAnswer_latches (b : Byte) (a : SinkAnswer) (s : State) : KeepsLatches s (onSinkAnswer b a s) := by
  obtain ⟨-, heq⟩ | ⟨-, -, heq⟩ | ⟨-, -, -, heq⟩ | ⟨-, -, -, heq⟩ := onSinkAnswer_cases b a s <;> rw [heq] <;>
    exact ⟨rfl, rfl, rfl, rfl⟩

theorem onSourceAnswer_latches (a : SourceAnswer) (s : State) (hi : s.rxIdx < 9) :
    KeepsLatches s (onSourceAnswer a s hi) := by
  obtain ⟨-, heq⟩ | ⟨b, -, -, -, heq⟩ | ⟨b, -, -, -, heq⟩ | ⟨b, -, -, -, heq⟩ := onSourceAnswer_cases a s hi <;> rw [heq] <;>
    exact ⟨rfl, rfl, rfl, rfl⟩

theorem judge_latches (p : Packet) (ck : Byte) (s : State) : KeepsLatches s (judge p ck s) := by
  obtain ⟨-, heq⟩ | ⟨-, -, -, heq⟩ | ⟨-, -, -, heq⟩ | ⟨-, -, heq⟩ := judge_cases p ck s <;> rw [heq] <;>
    exact ⟨rfl, rfl, rfl, rfl⟩

theorem blockStep_latches {s s' : State} (h : blockStep s = .next s') : KeepsLatches s s' := by
  obtain rfl | ⟨-, hi, t, a, rest, -, -, rfl⟩ | ⟨-, hi, t, a, rest, -, -, rfl⟩ | ⟨-, rfl⟩ := blockStep_next h
  · exact ⟨rfl, rfl, rfl, rfl⟩
  · exact onSinkAnswer_latches s.tx[s.txIdx] a { s with transport := some { t with sink := rest } }
  · exact onSourceAnswer_latches a { s with transport := some { t with source := rest } } hi
  · exact judge_latches s.rx (ck8 s.rx) { s with acc := spanSum s.rx }

theorem actionStep_latches {a : HostAction} {s s' : State} (ha : a ≠ .reset) (h : actionStep a s = .next s') :
    KeepsLatches s s' := by
  obtain ⟨hr, -⟩ | ⟨t, -, -, rfl⟩ | ⟨v, rfl⟩ := actionStep_next h
  · exact absurd hr ha
  · exact ⟨rfl, rfl, rfl, rfl⟩
  · exact ⟨rfl, rfl, rfl, rfl⟩

/-- Settles O33: neither the block's own step nor a binding or a read writes a latch. -/
theorem latchesChangeOnlyAtAcceptance : Obligations.LatchesChangeOnlyAtAcceptance := by
  intro s s' hs hreset hrequest
  obtain ⟨l, hl⟩ | ⟨r, rest, hh, -⟩ | ⟨a, rest, hh, ha⟩ := step_next hs
  · exact blockStep_latches (s := { s with host := l }) hl
  · exact absurd hh (hrequest r rest)
  · exact actionStep_latches (s := { s with host := rest }) (fun hr => hreset rest (hr ▸ hh)) ha

end Sys2Proof.Machine

/-! # The phases and their steps -/
namespace Sys2Proof.Machine

/-! ## The phase table -/

/-- The table's rows that leave SENDING (R15, R86). -/
def LeavesSending (s s' : State) : Prop :=
  (s'.phase = .receiving ∧ s.op = .readCo2 ∧ s.txIdx = 8 ∧ s'.history = s.history ++ [.sink s.tx[8] .ok]) ∨
  (s'.phase = .idle ∧
    ((∃ b, s'.history = s.history ++ [.sink b .fail, .complete .writeFailure]) ∨
     (s.txIdx = 8 ∧ (s.op = .setAbc ∨ s.op = .sendCmd) ∧ s'.history = s.history ++ [.sink s.tx[8] .ok, .complete .none])))

/-- The table's rows that leave RECEIVING (R15, R92, R98). -/
def LeavesReceiving (s s' : State) : Prop :=
  (s'.phase = .validating ∧ s.rxIdx = 8 ∧ ∃ b, s'.history = s.history ++ [.source (.ok b)]) ∨
  (s'.phase = .idle ∧
    (s'.history = s.history ++ [.source .fail, .complete .readFailure] ∨
     (s.rxIdx = 0 ∧ ∃ b, b ≠ 0xFF ∧ s'.history = s.history ++ [.source (.ok b), .complete .invalidStartByte])))

theorem op_eq_of_sendOnly {o : Op} (hread : o ≠ .readCo2) (hrecv : o ≠ .recvResp) : o = .setAbc ∨ o = .sendCmd := by
  cases o with
  | readCo2 => exact absurd rfl hread
  | setAbc => exact .inl rfl
  | sendCmd => exact .inr rfl
  | recvResp => exact absurd rfl hrecv

theorem onSinkAnswer_phase {s : State} (hop : s.op ≠ .recvResp) (hi : s.txIdx < 9) (a : SinkAnswer) :
    (onSinkAnswer s.tx[s.txIdx] a s).phase = s.phase ∨ LeavesSending s (onSinkAnswer s.tx[s.txIdx] a s) := by
  have hlast (h9 : s.txIdx + 1 = 9) : s.txIdx = 8 ∧ s.tx[s.txIdx] = s.tx[8] :=
    have h8 : s.txIdx = 8 := Nat.succ.inj h9
    ⟨h8, getElem_congr_idx h8⟩
  obtain ⟨-, heq⟩ | ⟨-, -, heq⟩ | ⟨-, h9, hread, heq⟩ | ⟨-, h9, hread, heq⟩ :=
    onSinkAnswer_cases s.tx[s.txIdx] a s <;> rw [heq]
  · exact .inr (.inr ⟨rfl, .inl ⟨_, finishNoValue_record_history _ _ s⟩⟩)
  · exact .inl rfl
  · obtain ⟨h8, hbyte⟩ := hlast h9
    exact .inr (.inl ⟨rfl, hread, h8, by rw [hbyte]; rfl⟩)
  · obtain ⟨h8, hbyte⟩ := hlast h9
    refine .inr (.inr ⟨rfl, .inr ⟨h8, op_eq_of_sendOnly hread hop, ?_⟩⟩)
    rw [hbyte]
    exact finishNoValue_record_history _ _ { s with txIdx := 9 }

theorem onSourceAnswer_phase {s : State} (hi : s.rxIdx < 9) (a : SourceAnswer) :
    (onSourceAnswer a s hi).phase = s.phase ∨ LeavesReceiving s (onSourceAnswer a s hi) := by
  obtain ⟨-, heq⟩ | ⟨b, -, h0, hb, heq⟩ | ⟨b, -, -, h9, heq⟩ | ⟨b, -, -, -, heq⟩ := onSourceAnswer_cases a s hi <;> rw [heq]
  · exact .inr (.inr ⟨rfl, .inl (finishNoValue_record_history _ _ s)⟩)
  · exact .inr (.inr ⟨rfl, .inr ⟨h0, b, hb, finishNoValue_record_history _ _ { s with rx := s.rx.set s.rxIdx b hi }⟩⟩)
  · exact .inr (.inl ⟨rfl, by omega, b, rfl⟩)
  · exact .inl rfl

/-- The validation step goes to IDLE with an outcome (R96). -/
theorem judge_phase (p : Packet) (ck : Byte) (s : State) :
    (judge p ck s).phase = .idle ∧ ∃ k, (judge p ck s).history = s.history ++ [.complete k] := by
  obtain ⟨-, heq⟩ | ⟨-, -, -, heq⟩ | ⟨-, -, -, heq⟩ | ⟨-, -, heq⟩ := judge_cases p ck s <;> rw [heq] <;>
    exact ⟨rfl, _, rfl⟩

/-- The block's own step keeps its phase or leaves it by the table. -/
theorem blockStep_phase {s s' : State} (h : StateInv s) (hs : blockStep s = .next s') :
    s'.phase = s.phase ∨ (s.phase = .sending ∧ LeavesSending s s') ∨ (s.phase = .receiving ∧ LeavesReceiving s s') ∨
      (s.phase = .validating ∧ s'.phase = .idle ∧ ∃ k, s'.history = s.history ++ [.complete k]) := by
  obtain rfl | ⟨hp, hi, t, a, rest, -, -, rfl⟩ | ⟨hp, hi, t, a, rest, -, -, rfl⟩ | ⟨hp, rfl⟩ := blockStep_next hs
  · exact .inl rfl
  · obtain ⟨-, hop, -, -⟩ := h.sending hp
    exact (onSinkAnswer_phase (s := { s with transport := some { t with sink := rest } }) hop hi a).imp_right
      fun hl => .inl ⟨hp, hl⟩
  · exact (onSourceAnswer_phase (s := { s with transport := some { t with source := rest } }) hi a).imp_right
      fun hl => .inr (.inl ⟨hp, hl⟩)
  · exact .inr (.inr (.inr ⟨hp, judge_phase _ _ _⟩))

/-- An acceptance leaves IDLE for reception where the request is RECV_RESP, else for transmission. -/
theorem exec_request_phase {r : Request} {s s' : State} (h : exec (decodeRequest r) s = .next s') :
    s.phase = .idle ∧ s'.phase = if opOf r = .recvResp then .receiving else .sending := by
  obtain ⟨hp, -, ⟨ho, rfl⟩ | ⟨ho, rfl⟩ | ⟨ho, rfl⟩ | ⟨ho, rfl⟩⟩ := exec_request_next h <;> exact ⟨hp, by simp [opOf, ho]⟩

theorem actionStep_phase {a : HostAction} {s s' : State} (ha : a ≠ .reset) (h : actionStep a s = .next s') :
    s'.phase = s.phase := by
  obtain ⟨hr, -⟩ | ⟨t, -, -, rfl⟩ | ⟨v, rfl⟩ := actionStep_next h
  · exact absurd hr ha
  · rfl
  · rfl

/-- A block in VALIDATING goes to IDLE at its own step. -/
theorem idle_of_step_validating {s s' : State} (hp : s.phase = .validating) (hsilent : hostSilent s) (hs : step s = .next s') :
    s'.phase = .idle := by
  rw [step_of_hostSilent hsilent, blockStep_of_validating (by exact hp)] at hs
  obtain ⟨-, rfl⟩ := validate_next hs
  exact (judge_phase _ _ _).1

/-- Settles O35: a request's acceptance leaves IDLE, the block's own step leaves the other phases, and no other step but a reset
changes the phase. -/
theorem phaseChangesOnlyByTheTable : Obligations.PhaseChangesOnlyByTheTable := by
  intro s s' hinv hs hreset
  refine ⟨?_, fun hp hsilent => idle_of_step_validating hp hsilent hs⟩
  obtain ⟨l, hl⟩ | ⟨r, rest, hh, hr⟩ | ⟨a, rest, hh, ha⟩ := step_next hs
  · obtain hkeep | ⟨hp, ⟨hp', hr⟩ | ⟨hp', hi⟩⟩ | ⟨hp, ⟨hp', hv⟩ | ⟨hp', hi⟩⟩ | hv :=
      blockStep_phase (StateInv_host hinv l) hl
    · exact .inl hkeep
    · exact .inr (.inr (.inl ⟨hp, hp', hr⟩))
    · exact .inr (.inr (.inr (.inl ⟨hp, hp', hi⟩)))
    · exact .inr (.inr (.inr (.inr (.inl ⟨hp, hp', hv⟩))))
    · exact .inr (.inr (.inr (.inr (.inr (.inl ⟨hp, hp', hi⟩)))))
    · exact .inr (.inr (.inr (.inr (.inr (.inr hv)))))
  · exact .inr (.inl ⟨r, rest, hh, exec_request_phase (s := { s with host := rest }) hr⟩)
  · exact .inl (actionStep_phase (s := { s with host := rest }) (fun hr => hreset rest (hr ▸ hh)) ha)

/-! ## Requests: when they are refused -/

/-- Every request is an acceptance: which request it is decides only what an acceptance does. -/
theorem exec_request_eq_accept (r : Request) : ∃ act, ∀ s, exec (decodeRequest r) s = acceptWhenIdle act s := by
  unfold decodeRequest
  split
  · exact ⟨_, fun _ => rfl⟩
  split
  · exact ⟨_, fun _ => rfl⟩
  split
  · exact ⟨_, fun _ => rfl⟩
  · exact ⟨_, fun _ => rfl⟩

theorem acceptWhenIdle_of_busy {act : State → State} {s : State} (hp : s.phase ≠ .idle) :
    acceptWhenIdle act s = .refused .requestWhileBusy :=
  if_pos ((busy_eq_true s).mpr hp)

theorem acceptWhenIdle_of_unbound {act : State → State} {s : State} (hp : s.phase = .idle) (ht : s.transport = none) :
    acceptWhenIdle act s = .refused .noTransportBound := by
  rw [acceptWhenIdle, (busy_eq_false s).mpr hp, ht]
  rfl

/-- Settles O17: acceptance refuses, whichever request it is. -/
theorem requestIsRefusedWhileBusyOrUnbound : Obligations.RequestIsRefusedWhileBusyOrUnbound := by
  intro r s
  obtain ⟨act, hact⟩ := exec_request_eq_accept r
  rw [hact]
  exact ⟨acceptWhenIdle_of_busy, acceptWhenIdle_of_unbound⟩

/-! ## What the step runs -/

/-- Settles O36: in SENDING and VALIDATING the block's own step is that of the instruction its buffer decodes to. -/
theorem stepRunsTheDecodedInstruction : Obligations.StepRunsTheDecodedInstruction := by
  refine ⟨fun s r rest h => step_of_host_request h, fun s i hp hd => ?_, fun s i hp hd => ?_⟩
  · have hexec := exec_of_command (encode_of_decodeCommand hd)
    refine ⟨fun h => ?_, fun rest h => ?_⟩
    · rw [step_of_host_nil h, blockStep_of_sending hp, hexec]
    · rw [step_of_host_none h, blockStep_of_sending (by exact hp), hexec]
  · have hexec := exec_of_response (encode_of_decodeResponse hd)
    refine ⟨fun h => ?_, fun rest h => ?_⟩
    · rw [step_of_host_nil h, blockStep_of_validating hp, hexec]
    · rw [step_of_host_none h, blockStep_of_validating (by exact hp), hexec]

theorem blockStep_of_idle {s : State} (hp : s.phase = .idle) : blockStep s = .next s := by
  unfold blockStep
  rw [hp]

/-- Settles O50: the step is the block's own, and in IDLE that is the wait. -/
theorem idleBlockWaits : Obligations.IdleBlockWaits := by
  intro s hp hsilent
  rw [step_of_hostSilent hsilent]
  exact blockStep_of_idle hp

end Sys2Proof.Machine

/-! # The result port -/
namespace Sys2Proof.Machine

theorem busy_eq_phase_ne (s : State) : busy s = (s.phase != .idle) := by
  cases h : s.phase <;> simp [busy, h]

theorem ppmDefined_iff (s : State) : ppmDefined s = true ↔ s.resultValid = true ∧ s.op = .readCo2 ∧ s.status = 0 := by
  simp [ppmDefined, Kind.code, and_assoc]

theorem respDefined_iff (s : State) : respDefined s = true ↔ s.resultValid = true ∧ s.op = .recvResp ∧ s.status = 0 := by
  simp [respDefined, Kind.code, and_assoc]

theorem readStatus_of_valid {s : State} (hv : s.resultValid = true) (h6 : s.status.toNat < 6) :
    readStatus s = .ok (.status s.status) := by
  rw [readStatus, statusDefined, if_pos hv, if_pos h6]

theorem readStatus_of_noResult {s : State} (hv : s.resultValid = false) : readStatus s = .error .resultNotValid := by
  rw [readStatus, statusDefined, hv]
  rfl

theorem readPpm_of_defined {s : State} (h : ppmDefined s = true) : readPpm s = .ok (.ppm s.ppm) := if_pos h

theorem readResp_of_defined {s : State} (h : respDefined s = true) : readResp s = .ok (.resp s.resp) := if_pos h

theorem hostRead_of_ok {r : Except Fault PortValue} {v : PortValue} (h : r = .ok v) (s : State) :
    hostRead r s = .next { s with lastRead := some v } := by
  rw [h, hostRead]

theorem hostRead_of_error {r : Except Fault PortValue} {f : Fault} (h : r = .error f) (s : State) :
    hostRead r s = .fault f := by
  rw [h, hostRead]

/-- Settles O45: each read gives the port's value where R26 defines it, and otherwise faults. -/
theorem resultPortReads : Obligations.ResultPortReads := by
  intro s rest
  refine ⟨fun h => ?_, fun h => ?_, fun h hv h6 => ?_, fun h hv => ?_, fun h hd => ?_, fun h hd => ?_, fun h hd => ?_,
    fun h hd => ?_⟩ <;> rw [step_of_host_action (by nofun) h, actionStep]
  · rw [busy_eq_phase_ne]
    exact hostRead_of_ok rfl _
  · exact hostRead_of_ok rfl _
  · exact hostRead_of_ok (readStatus_of_valid (s := s) hv h6) _
  · exact hostRead_of_error (readStatus_of_noResult (s := s) hv) _
  · exact hostRead_of_ok (readPpm_of_defined ((ppmDefined_iff s).mpr hd)) _
  · exact hostRead_of_error (if_neg (mt (ppmDefined_iff s).mp hd)) _
  · exact hostRead_of_ok (readResp_of_defined ((respDefined_iff s).mpr hd)) _
  · exact hostRead_of_error (if_neg (mt (respDefined_iff s).mp hd)) _

/-- What the host sees of two states with the same port registers: of the phase only whether it is IDLE, and of the operation
only that of a valid result. -/
theorem hostView_eq_of_port {s t : State} (hp : t.phase = .idle ↔ s.phase = .idle) (hv : t.resultValid = s.resultValid)
    (ho : s.resultValid = true → t.op = s.op) (hst : t.status = s.status) (hppm : t.ppm = s.ppm) (hresp : t.resp = s.resp)
    (hh : t.history = s.history) (hl : t.lastRead = s.lastRead) (htr : t.transport = s.transport) :
    hostView t = hostView s := by
  have hbusy : busy t = busy s := by rw [Bool.eq_iff_iff, busy_eq_true, busy_eq_true, ne_eq, ne_eq, hp]
  cases hval : s.resultValid with
  | false => rw [hostView_of_noResult hval, hostView_of_noResult (hv.trans hval), hbusy, hh, hl, htr]
  | true =>
    rw [hostView, hostView, statusDefined, statusDefined, ppmDefined, ppmDefined, respDefined, respDefined, hbusy, hv, ho hval,
      hst, hppm, hresp, hh, hl, htr]

/-- Settles O51: the view is the same, so every claim about it is. -/
theorem claimsCannotReadHiddenState : Obligations.ClaimsCannotReadHiddenState := by
  intro c s ph o en code pl tx rx i j a hp ho
  exact iff_of_eq (congrArg c (hostView_eq_of_port hp rfl ho rfl rfl rfl rfl rfl rfl))

end Sys2Proof.Machine

/-! # A dutiful host is never stopped -/
namespace Sys2Proof.Machine

/-- The block's own step always goes on: it waits, or a call is answered, or the response is judged. -/
theorem blockStep_progress {s : State} (h : StateInv s) : ∃ s', blockStep s = .next s' := by
  cases hp : s.phase with
  | idle => exact ⟨s, blockStep_of_idle hp⟩
  | sending =>
    obtain ⟨hi, -⟩ := h.sending hp
    obtain ⟨t, ht⟩ := Option.ne_none_iff_exists'.mp (h.busyBound (by simp [hp]))
    rw [blockStep_of_sending hp]
    cases ha : t.sink with
    | nil => exact ⟨s, transmit_of_no_answer hp hi ht ha⟩
    | cons a rest => exact ⟨_, transmit_of_answer hp hi ht ha⟩
  | receiving =>
    obtain ⟨hi, -⟩ := h.receiving hp
    obtain ⟨t, ht⟩ := Option.ne_none_iff_exists'.mp (h.busyBound (by simp [hp]))
    rw [blockStep_of_receiving hp]
    cases ha : t.source with
    | nil => exact ⟨s, receive_of_no_answer hp hi ht ha⟩
    | cons a rest => exact ⟨_, receive_of_answer hp hi ht ha⟩
  | validating =>
    rw [blockStep_of_validating hp]
    exact ⟨_, validate_eq hp⟩

/-- R115: codes 6 and 7 are no outcome's. -/
theorem Kind.code_lt (k : Kind) : k.code.toNat < 6 := by
  cases k <;> decide

theorem StateInv.status_lt {s : State} (h : StateInv s) (hv : s.resultValid = true) : s.status.toNat < 6 := by
  obtain ⟨-, k, hk, -⟩ := h.completed hv
  exact hk ▸ k.code_lt

/-- A host action other than a request goes on where the host respects its duties. -/
theorem actionStep_progress {a : HostAction} {s : State} {rest : List (Option HostAction)} (h : StateInv s)
    (hreq : ∀ r, a ≠ .request r) (hhost : s.host = some a :: rest) (hduty : hostRespects s = true) :
    ∃ s', actionStep a { s with host := rest } = .next s' := by
  rw [hostRespects, hhost] at hduty
  cases a with
  | request r => exact absurd rfl (hreq r)
  | bind t => exact ⟨_, if_neg (by simpa using hduty)⟩
  | reset => exact ⟨_, rfl⟩
  | readBusy => exact ⟨_, rfl⟩
  | readResultValid => exact ⟨_, rfl⟩
  | readStatus => exact ⟨_, hostRead_of_ok (readStatus_of_valid (s := s) hduty (h.status_lt hduty)) _⟩
  | readPpm => exact ⟨_, hostRead_of_ok (readPpm_of_defined (s := s) hduty) _⟩
  | readResp => exact ⟨_, hostRead_of_ok (readResp_of_defined (s := s) hduty) _⟩

/-- Settles O43: the block's own step goes on by the invariant, a host action by the host's duties. -/
theorem dutifulHostIsNeverStopped : Obligations.DutifulHostIsNeverStopped := by
  intro s h hduty
  obtain ⟨-, heq⟩ | ⟨rest, -, heq⟩ | ⟨r, rest, hhost, heq⟩ | ⟨a, rest, hreq, hhost, heq⟩ := step_cases s <;> rw [heq]
  · exact blockStep_progress h
  · exact blockStep_progress (StateInv_host h rest)
  · obtain ⟨act, hact⟩ := exec_request_eq_accept r
    obtain ⟨hidle, hbound⟩ : s.phase = .idle ∧ s.transport.isSome := by simpa [hostRespects, hhost] using hduty
    rw [hact]
    exact ⟨_, acceptWhenIdle_of_idle hidle (Option.isSome_iff_ne_none.mp hbound)⟩
  · exact actionStep_progress h hreq hhost hduty

end Sys2Proof.Machine

/-! # An operation as the host sees it

From any state inside an operation the block runs to an idle state, or to one that waits for ever. What the host then sees is
told by the trace of what is left of the operation, after the events already recorded. -/
namespace Sys2Proof.Machine

/-! ## Traces and their views -/

/-- The trace with these events before it. -/
def Trace.afterAll (h : List Event) (q : Trace) : Trace :=
  { q with calls := h ++ q.calls }

/-- What the host sees once an operation `o` with this trace has ended, or hangs. -/
def Trace.view (o : Op) (l : Option PortValue) (q : Trace) : HostView :=
  match q.outcome with
  | none => { busy := true, resultValid := false, status := none, ppm := none, resp := none, history := q.calls, lastRead := l,
              transport := some q.left }
  | some k => { busy := false, resultValid := true, status := some k.code,
                ppm := if o = .readCo2 then q.value.map decodePpm else none,
                resp := if o = .recvResp then q.value else none,
                history := q.calls ++ [.complete k], lastRead := l, transport := some q.left }

theorem viewAfter_eq_view (r : Request) (t : Transport) (l : Option PortValue) :
    viewAfter r t l = (operationTrace r t).view (opOf r) l := rfl

/-- A transmission's trace goes on with the reception where the operation is READ_CO2 and every byte was sent (R86). -/
def Trace.thenReceive (o : Op) (q : Trace) : Trace :=
  if o = .readCo2 ∧ q.outcome = some .none then
    (receiveTrace .readCo2 q.left.sink 9 [] q.left.source).afterAll q.calls
  else q

theorem Trace.afterAll_mk_nil (h : List Event) (t : Transport) (k : Option Kind) (v : Option Packet) :
    (Trace.mk [] t k v).afterAll h = ⟨h, t, k, v⟩ := by
  rw [Trace.afterAll, List.append_nil]

theorem Trace.afterAll_nil (q : Trace) : q.afterAll [] = q := rfl

theorem Trace.afterAll_after (h : List Event) (e : Event) (q : Trace) :
    (q.after e).afterAll h = q.afterAll (h ++ [e]) := by
  simp [Trace.afterAll, Trace.after]

theorem Trace.thenReceive_after (o : Op) (e : Event) (q : Trace) :
    (q.after e).thenReceive o = (q.thenReceive o).after e := by
  unfold Trace.thenReceive
  split <;> rename_i h <;> rw [Trace.after] at h
  · rw [if_pos h]
    rfl
  · rw [if_neg h]

theorem Trace.thenReceive_of_sendOnly {o : Op} (h : o ≠ .readCo2) (q : Trace) : q.thenReceive o = q :=
  if_neg fun hc => h hc.1

theorem Trace.thenReceive_of_unsent {q : Trace} (h : q.outcome ≠ some .none) (o : Op) : q.thenReceive o = q :=
  if_neg fun hc => h hc.2

theorem operationTrace_of_sends {r : Request} {p : Packet} (hp : packetOf r = some p) (t : Transport) :
    operationTrace r t = (sendTrace p.toList t.sink t.source).thenReceive (opOf r) := by
  rw [operationTrace, hp]
  rfl

theorem operationTrace_of_receives {r : Request} (hp : packetOf r = none) (t : Transport) :
    operationTrace r t = receiveTrace .recvResp t.sink 9 [] t.source := by
  rw [operationTrace, hp]

/-! ## Runs that settle -/

/-- In at most `n` steps, with nothing from the host, the block comes to a state that looks like `v` and stays if busy. -/
def SettlesIn (n : Nat) (s : State) (v : HostView) : Prop :=
  ∃ m s', m ≤ n ∧ core.run m s = .next s' ∧ s'.host = [] ∧ hostView s' = v ∧ (busy s' = true → step s' = .next s')

theorem SettlesIn.here {s : State} {v : HostView} (n : Nat) (hh : s.host = []) (hv : hostView s = v)
    (hb : busy s = true → step s = .next s) : SettlesIn n s v :=
  ⟨0, s, Nat.zero_le n, rfl, hh, hv, hb⟩

/-- An idle block has settled. -/
theorem SettlesIn.idle {s : State} {v : HostView} (n : Nat) (hp : s.phase = .idle) (hh : s.host = []) (hv : hostView s = v) :
    SettlesIn n s v :=
  .here n hh hv fun hb => absurd hp ((busy_eq_true s).mp hb)

theorem SettlesIn.of_step {n : Nat} {s s' : State} {v : HostView} (hs : step s = .next s') (h : SettlesIn n s' v) :
    SettlesIn (n + 1) s v := by
  obtain ⟨m, u, hm, hrun, hu⟩ := h
  exact ⟨m + 1, u, Nat.succ_le_succ hm, (run_succ_of_next hs m).trans hrun, hu⟩

theorem SettlesIn.mono {m n : Nat} {s : State} {v : HostView} (h : SettlesIn m s v) (hmn : m ≤ n) : SettlesIn n s v := by
  obtain ⟨k, u, hk, hu⟩ := h
  exact ⟨k, u, hk.trans hmn, hu⟩

/-! ## What the host sees of a completion and of a wait -/

theorem Kind.code_eq_code_none {k : Kind} : k.code = Kind.none.code ↔ k = .none := by
  cases k <;> decide

/-- A completion that defines no value: an error, or NONE of an operation that only sends. -/
theorem hostView_finishNoValue {k : Kind} {s : State} {t : Transport} (ht : s.transport = some t)
    (hk : k = .none → s.op ≠ .readCo2 ∧ s.op ≠ .recvResp) :
    hostView (finishNoValue k s) = (Trace.mk s.history t (some k) none).view s.op s.lastRead := by
  have hppm : ppmDefined (finishNoValue k s) = false := by
    rw [Bool.eq_false_iff, ne_eq, ppmDefined_iff]
    exact fun ⟨_, ho, hc⟩ => (hk (Kind.code_eq_code_none.mp hc)).1 ho
  have hresp : respDefined (finishNoValue k s) = false := by
    rw [Bool.eq_false_iff, ne_eq, respDefined_iff]
    exact fun ⟨_, ho, hc⟩ => (hk (Kind.code_eq_code_none.mp hc)).2 ho
  rw [hostView, hppm, hresp]
  simp [Trace.view, finishNoValue, busy, statusDefined, ht]

theorem hostView_finishPpm {p : Packet} {s : State} {t : Transport} (ht : s.transport = some t) (ho : s.op = .readCo2) :
    hostView (finishPpm p s) = (Trace.mk s.history t (some .none) (some p)).view .readCo2 s.lastRead := by
  simp [hostView, Trace.view, finishPpm, busy, statusDefined, ppmDefined, respDefined, ht, ho]

theorem hostView_finishResp {p : Packet} {s : State} {t : Transport} (ht : s.transport = some t) (ho : s.op = .recvResp) :
    hostView (finishResp p s) = (Trace.mk s.history t (some .none) (some p)).view .recvResp s.lastRead := by
  simp [hostView, Trace.view, finishResp, busy, statusDefined, ppmDefined, respDefined, ht, ho]

/-- What is seen of a block inside an operation: its calls so far. -/
theorem hostView_of_running {s : State} {t : Transport} (hp : s.phase ≠ .idle) (hv : s.resultValid = false)
    (ht : s.transport = some t) (o : Op) : hostView s = (Trace.mk s.history t none none).view o s.lastRead := by
  rw [hostView_of_noResult hv, (busy_eq_true s).mpr hp, ht]
  rfl

/-! ## Validation -/

theorem packetOfBytes_toList (p : Packet) : packetOfBytes p.toList = .ok p := by
  conv_rhs => rw [packet_eta p]
  conv_lhs => rw [packet_eta p]
  rfl

/-- What the host sees of the judged response is told by the bytes received. -/
theorem hostView_judge {s : State} {t : Transport} (ht : s.transport = some t) (ho : receives s.op) :
    hostView (judge s.rx (ck8 s.rx) s) =
      ((judgeTrace s.op s.rx.toList t.sink t.source).afterAll s.history).view s.op s.lastRead := by
  rw [judgeTrace, packetOfBytes_toList]
  obtain ⟨h8, heq⟩ | ⟨h8, hop, h1, heq⟩ | ⟨h8, hop, h1, heq⟩ | ⟨h8, hop, heq⟩ := judge_cases s.rx (ck8 s.rx) s <;>
    rw [heq]
  · simp only [if_pos h8]
    rw [hostView_finishNoValue (k := .badChecksum) ht nofun, Trace.afterAll_mk_nil]
  · simp only [if_neg (not_not_intro h8), if_pos (And.intro hop h1)]
    rw [hostView_finishNoValue (k := .invalidResponseCommand) ht nofun, Trace.afterAll_mk_nil]
  · simp only [if_neg (not_not_intro h8), if_neg fun hc : s.op = .readCo2 ∧ s.rx[1] ≠ codeReadCo2 => hc.2 h1]
    rw [hostView_finishPpm ht hop, Trace.afterAll_mk_nil, hop]
  · simp only [if_neg (not_not_intro h8), if_neg fun hc : s.op = .readCo2 ∧ s.rx[1] ≠ codeReadCo2 => hop hc.1]
    rw [hostView_finishResp ht (ho.resolve_left hop), Trace.afterAll_mk_nil, ho.resolve_left hop]

theorem judge_host (p : Packet) (ck : Byte) (s : State) : (judge p ck s).host = s.host := by
  obtain ⟨-, heq⟩ | ⟨-, -, -, heq⟩ | ⟨-, -, -, heq⟩ | ⟨-, -, heq⟩ := judge_cases p ck s <;> rw [heq] <;> rfl

/-- A running operation with nothing from the host: where a run of it starts. -/
structure Undisturbed (s : State) (t : Transport) : Prop where
  host : s.host = []
  bound : s.transport = some t
  noResult : s.resultValid = false

/-- A response received whole is judged in one step. -/
theorem settles_of_validating {s : State} {t : Transport} (h : Undisturbed s t) (hp : s.phase = .validating)
    (ho : receives s.op) :
    SettlesIn 1 s (((judgeTrace s.op s.rx.toList t.sink t.source).afterAll s.history).view s.op s.lastRead) := by
  have hstep : step s = .next (judge s.rx (ck8 s.rx) { s with acc := spanSum s.rx }) := by
    rw [step_of_host_nil h.host, blockStep_of_validating hp, validate_eq hp]
  refine .of_step hstep (.idle 0 (judge_phase _ _ _).1 ((judge_host _ _ _).trans h.host) ?_)
  exact hostView_judge (s := { s with acc := spanSum s.rx }) h.bound ho

/-! ## Reception -/

theorem toList_take_set (p : Packet) {n : Nat} (h : n < 9) (b : Byte) :
    (p.set n b).toList.take (n + 1) = p.toList.take n ++ [b] := by
  rw [List.take_add_one, Vector.toList_set, List.take_set_of_le (Nat.le_refl n)]
  simp [h]

theorem toList_take_nine (p : Packet) : p.toList.take 9 = p.toList :=
  List.take_of_length_le (by simp)

/-- A byte other than a wrong start byte is stored, and the ninth leads to validation (R93 to R95). -/
theorem onSourceAnswer_stores {b : Byte} {s : State} (hi : s.rxIdx < 9) (hb : s.rxIdx = 0 → b = sentinel) :
    onSourceAnswer (.ok b) s hi =
      { record (.source (.ok b)) { s with rx := s.rx.set s.rxIdx b hi } with
        rxIdx := s.rxIdx + 1, phase := if s.rxIdx + 1 = 9 then .validating else s.phase } := by
  rw [onSourceAnswer_ok, if_neg fun hc => hc.2 (hb hc.1)]
  split <;> rfl

/-- With `n` bytes of the response to come the block settles in a step for each and the judgement. -/
theorem settles_of_receiving {n : Nat} {s : State} {t : Transport} (h : Undisturbed s t)
    (hp : s.phase = if s.rxIdx = 9 then .validating else .receiving) (ho : receives s.op) (hi : s.rxIdx + n = 9) :
    SettlesIn (n + 1) s
      (((receiveTrace s.op t.sink n (s.rx.toList.take s.rxIdx) t.source).afterAll s.history).view s.op s.lastRead) := by
  induction n generalizing s t with
  | zero =>
    have h9 : s.rxIdx = 9 := hi
    rw [if_pos h9] at hp
    rw [h9, toList_take_nine]
    exact settles_of_validating h hp ho
  | succ n ih =>
    have hlt : s.rxIdx < 9 := by omega
    rw [if_neg hlt.ne] at hp
    obtain ⟨sink, source⟩ := t
    cases source with
    | nil =>
      refine .here _ h.host ?_ fun _ => step_waits_for_source h.host hp hlt h.bound rfl
      rw [receiveTrace, Trace.afterAll_mk_nil]
      exact hostView_of_running (by simp [hp]) h.noResult h.bound s.op
    | cons a rest =>
      refine .of_step (step_of_source_answer h.host hp hlt h.bound rfl) ?_
      cases a with
      | fail => exact .idle _ rfl h.host (hostView_finishNoValue (k := .readFailure) rfl nofun)
      | ok b =>
        rw [receiveTrace]
        by_cases hb : s.rxIdx = 0 ∧ b ≠ sentinel
        · rw [onSourceAnswer_ok, if_pos hb, if_pos ⟨by rw [hb.1, List.take_zero], hb.2⟩]
          exact .idle _ rfl h.host (hostView_finishNoValue (k := .invalidStartByte) rfl nofun)
        · have hgot : ¬ (s.rx.toList.take s.rxIdx = [] ∧ b ≠ sentinel) := fun hc => hb ⟨by simpa using hc.1, hc.2⟩
          have hfirst : s.rxIdx = 0 → b = sentinel := fun h0 => by_contra fun hne => hb ⟨h0, hne⟩
          rw [onSourceAnswer_stores _ (by exact hfirst), if_neg hgot, Trace.afterAll_after, ← toList_take_set s.rx hlt b]
          refine ih (t := ⟨sink, rest⟩) (s := { record (.source (.ok b)) { s with
              transport := some ⟨sink, rest⟩, rx := s.rx.set s.rxIdx b } with
            rxIdx := s.rxIdx + 1, phase := if s.rxIdx + 1 = 9 then .validating else s.phase })
            ⟨h.host, rfl, h.noResult⟩ ?_ ho ?_
          · rw [hp]
          · show s.rxIdx + 1 + n = 9
            omega

/-! ## Transmission -/

/-- After the ninth byte (R86) the operation is over, or a whole response is to come. -/
theorem settles_of_afterLastSink {s : State} {t : Transport} (h : Undisturbed s t) (ho : s.op ≠ .recvResp) :
    SettlesIn 10 (afterLastSink s)
      ((((Trace.mk [] t (some .none) none).thenReceive s.op).afterAll s.history).view s.op s.lastRead) := by
  by_cases hread : s.op = .readCo2
  · rw [afterLastSink, if_pos hread, Trace.thenReceive, if_pos ⟨hread, rfl⟩]
    have hrest := settles_of_receiving (n := 9) (s := { s with rxIdx := 0, phase := .receiving })
      ⟨h.host, h.bound, h.noResult⟩ rfl (.inl hread) rfl
    simpa only [hread, List.take_zero, Trace.afterAll_nil] using hrest
  · rw [afterLastSink, if_neg hread, Trace.thenReceive_of_sendOnly hread, Trace.afterAll_mk_nil]
    exact .idle _ rfl h.host (hostView_finishNoValue h.bound fun _ => ⟨hread, ho⟩)

/-- With `n` bytes of the command to go the block settles in a step for each and those of what follows. The last byte is passed
in the step that sends it. -/
theorem settles_of_sending {n : Nat} {s : State} {t : Transport} (h : Undisturbed s t) (hp : s.phase = .sending)
    (ho : s.op ≠ .recvResp) (hi : s.txIdx + n = 9) :
    SettlesIn (n + 10) (if s.txIdx = 9 then afterLastSink s else s)
      ((((sendTrace (s.tx.toList.drop s.txIdx) t.sink t.source).thenReceive s.op).afterAll s.history).view s.op s.lastRead) := by
  induction n generalizing s t with
  | zero =>
    have h9 : s.txIdx = 9 := hi
    rw [if_pos h9, List.drop_eq_nil_of_le (by simp [h9]), sendTrace]
    exact settles_of_afterLastSink h ho
  | succ n ih =>
    have hlt : s.txIdx < 9 := by omega
    have hbytes : s.tx.toList.drop s.txIdx = s.tx[s.txIdx] :: s.tx.toList.drop (s.txIdx + 1) := by
      rw [List.drop_eq_getElem_cons (by simpa using hlt), Vector.getElem_toList]
    rw [if_neg hlt.ne, hbytes]
    obtain ⟨sink, source⟩ := t
    cases sink with
    | nil =>
      refine .here _ h.host ?_ fun _ => step_waits_for_sink h.host hp hlt h.bound rfl
      rw [sendTrace, Trace.thenReceive_of_unsent (by nofun), Trace.afterAll_mk_nil]
      exact hostView_of_running (by simp [hp]) h.noResult h.bound s.op
    | cons a rest =>
      refine .of_step (step_of_sink_answer h.host hp hlt h.bound rfl) ?_
      cases a with
      | fail =>
        rw [sendTrace, Trace.thenReceive_of_unsent (by nofun)]
        exact .idle _ rfl h.host (hostView_finishNoValue (k := .writeFailure) rfl nofun)
      | ok =>
        rw [onSinkAnswer_ok, sendTrace, Trace.thenReceive_after, Trace.afterAll_after]
        refine ih (s := { record (.sink s.tx[s.txIdx] .ok) { s with transport := some ⟨rest, source⟩ } with
          txIdx := s.txIdx + 1 }) ⟨h.host, rfl, h.noResult⟩ hp ho ?_
        show s.txIdx + 1 + n = 9
        omega

/-! ## The whole operation -/

/-- A block that has accepted a sending request. -/
theorem settles_of_accepted_sending {r : Request} {s : State} {t : Transport} (h : Undisturbed s t) (hp : s.phase = .sending)
    (hi : s.txIdx = 0) (hh : s.history = []) (hop : s.op = opOf r) (hpkt : packetOf r = some s.tx) (hrecv : s.op ≠ .recvResp) :
    SettlesIn 19 s (viewAfter r t s.lastRead) := by
  have hsend := settles_of_sending (n := 9) h hp hrecv (by rw [hi])
  rw [viewAfter_eq_view, operationTrace_of_sends hpkt, ← hop]
  simpa [hi, hh, Trace.afterAll] using hsend

/-- A block that has accepted RECV_RESP. -/
theorem settles_of_accepted_receiving {r : Request} {s : State} {t : Transport} (h : Undisturbed s t)
    (hp : s.phase = .receiving) (hi : s.rxIdx = 0) (hh : s.history = []) (hop : s.op = opOf r) (hpkt : packetOf r = none)
    (hrecv : s.op = .recvResp) : SettlesIn 19 s (viewAfter r t s.lastRead) := by
  have hreceive := settles_of_receiving (n := 9) h (by rw [hi]; exact hp) (.inr hrecv) (by rw [hi])
  rw [viewAfter_eq_view, operationTrace_of_receives hpkt, ← hop]
  refine SettlesIn.mono ?_ (show 10 ≤ 19 by decide)
  simpa [hi, hh, hrecv, Trace.afterAll] using hreceive

/-- An idle, bound block accepts the request and then settles. -/
theorem settles_of_request {s : State} {r : Request} {t : Transport} (hp : s.phase = .idle)
    (hhost : s.host = [some (.request r)]) (ht : s.transport = some t) : ∃ s', step s = .next s' ∧
      SettlesIn 19 s' (viewAfter r t s.lastRead) := by
  obtain ⟨act, hact⟩ := exec_request_eq_accept r
  obtain ⟨s', hs'⟩ : ∃ s', exec (decodeRequest r) { s with host := [] } = .next s' :=
    ⟨_, (hact _).trans (acceptWhenIdle_of_idle hp (by simp [ht]))⟩
  refine ⟨s', (step_of_host_request hhost).trans hs', ?_⟩
  obtain ⟨-, -, ⟨ho, rfl⟩ | ⟨ho, rfl⟩ | ⟨ho, rfl⟩ | ⟨ho, rfl⟩⟩ := exec_request_next hs'
  case inr.inr.inr =>
    exact settles_of_accepted_receiving ⟨rfl, ht, rfl⟩ rfl rfl rfl (by simp [opOf, ho]) (by simp [packetOf, opOf, ho]) rfl
  all_goals
    exact settles_of_accepted_sending ⟨rfl, ht, rfl⟩ rfl rfl rfl (by simp [opOf, ho]) (by simp [packetOf, opOf, ho]) nofun

/-- Settles O52: after the acceptance the block settles within the operation's steps, and a claim is about the view. -/
theorem operationAsTheHostSeesIt : Obligations.OperationAsTheHostSeesIt := by
  intro s r t hidle hhost ht
  obtain ⟨s₁, hstep, m, s', hm, hrun, hhost', hview, hstays⟩ := settles_of_request ((busy_eq_false s).mp hidle) hhost ht
  refine ⟨m + 1, s', Nat.le_add_left 1 m, Nat.succ_le_succ hm, (run_succ_of_next hstep m).trans hrun, hhost',
    fun c => iff_of_eq (congrArg c hview), fun hb => run_of_step_self (hstays hb)⟩

end Sys2Proof.Machine

/-! # Host actions while an operation runs, and the decoded concentration -/
namespace Sys2Proof.Machine

/-- The host's only actions that go on while an operation runs are a reset and the reads of the result port. -/
theorem actionStep_busy_next {a : HostAction} {s s' : State} (hb : busy s = true) (ha : a ≠ .reset)
    (h : actionStep a s = .next s') : ∃ v, s' = { s with lastRead := some v } := by
  obtain ⟨hr, -⟩ | ⟨-, -, hidle, -⟩ | hread := actionStep_next h
  · exact absurd hr ha
  · exact absurd hidle ((busy_eq_true s).mp hb)
  · exact hread

/-- Settles O48: a request or a binding that goes on needs an idle block, and what is left but a reset are the reads. -/
theorem hostCannotCancel : Obligations.HostCannotCancel := by
  intro s s' a rest hb hh ha hs
  by_cases hreq : ∃ r, a = .request r
  · obtain ⟨r, rfl⟩ := hreq
    rw [step_of_host_request hh] at hs
    obtain ⟨hidle, -⟩ := exec_request_next hs
    exact absurd hidle ((busy_eq_true s).mp hb)
  · rw [step_of_host_action (fun r hr => hreq ⟨r, hr⟩) hh] at hs
    exact actionStep_busy_next (s := { s with host := rest }) hb ha hs

/-- Settles O12: the two bytes make at most 255 * 256 + 255, so the 16-bit product and sum do not wrap. -/
theorem concentrationIsBigEndian : Obligations.ConcentrationIsBigEndian := by
  intro p
  have hhigh : p[2].toNat < 256 := p[2].isLt
  have hlow : p[3].toNat < 256 := p[3].isLt
  simp only [decodePpm, BitVec.toNat_add, BitVec.toNat_mul, BitVec.toNat_setWidth, BitVec.toNat_ofNat]
  omega

end Sys2Proof.Machine

/-! # Encodings -/
namespace Sys2Proof.Machine

/-! ## Words -/

theorem ofNat_eq_of_mod_eq {w n : Nat} {x : BitVec w} (h : n % 2 ^ w = x.toNat) : BitVec.ofNat w n = x :=
  BitVec.eq_of_toNat_eq ((BitVec.toNat_ofNat n w).trans h)

/-- The last byte of a big-endian number is its low eight bits. -/
theorem ofNat_append_byte (n : Nat) (b : Byte) : BitVec.ofNat 8 (n * 256 + b.toNat) = b :=
  ofNat_eq_of_mod_eq (by omega)

/-- Shifting the last byte of a big-endian number out leaves the bytes before it. -/
theorem append_byte_div (n : Nat) (b : Byte) : (n * 256 + b.toNat) / 256 = n := by
  omega

/-- R47: a byte's place in the word is its offset's, so the bytes come out one by one from the last. -/
theorem packetOfNat_packetToNat (p : Packet) : packetOfNat (packetToNat p) = p := by
  conv_rhs => rw [packet_eta p]
  simp only [packetOfNat, packetToNat, Nat.pow_succ, Nat.pow_zero, Nat.one_mul, ← Nat.div_div_eq_div_mul, append_byte_div,
    ofNat_append_byte, BitVec.ofNat_toNat, BitVec.setWidth_eq]

/-- Log 11: the places of the request's fields do not overlap. -/
theorem requestOfNat_requestToNat (r : Request) : requestOfNat (requestToNat r) = r := by
  obtain ⟨op, en, code, p⟩ := r
  have hw : requestToNat ⟨op, en, code, p⟩ = op.toNat + 2 ^ 2 * en.toNat + 2 ^ 3 * code.toNat + 2 ^ 11 * p[0].toNat
    + 2 ^ 19 * p[1].toNat + 2 ^ 27 * p[2].toNat + 2 ^ 35 * p[3].toNat + 2 ^ 43 * p[4].toNat := rfl
  generalize requestToNat ⟨op, en, code, p⟩ = w at hw ⊢
  have hen : en.toNat ≤ 1 := Bool.toNat_le en
  have henBit : (w / 2 ^ 2 % 2 == 1) = en := by
    have hbit : w / 2 ^ 2 % 2 = en.toNat := by omega
    rw [hbit]
    cases en <;> rfl
  conv_rhs => rw [payload_eta p]
  rw [requestOfNat, henBit, ofNat_eq_of_mod_eq (x := op) (by omega), ofNat_eq_of_mod_eq (x := code) (by omega),
    ofNat_eq_of_mod_eq (x := p[0]) (by omega), ofNat_eq_of_mod_eq (x := p[1]) (by omega),
    ofNat_eq_of_mod_eq (x := p[2]) (by omega), ofNat_eq_of_mod_eq (x := p[3]) (by omega),
    ofNat_eq_of_mod_eq (x := p[4]) (by omega)]

/-- The word holds all of the encoding. -/
theorem decodeWord_encodeWord (i : Instr) : decodeWord i.format (encodeWord i) = decode (encode i) := by
  cases i <;> simp only [Instr.format, encodeWord, encode, decodeWord, packetOfNat_packetToNat, requestOfNat_requestToNat]

/-! ## Rows -/

theorem vector6_eta (q : Vector Byte 6) : q = #v[q[0], q[1], q[2], q[3], q[4], q[5]] := by
  ext i hi
  have : i = 0 ∨ i = 1 ∨ i = 2 ∨ i = 3 ∨ i = 4 ∨ i = 5 := by omega
  rcases this with rfl | rfl | rfl | rfl | rfl | rfl <;> rfl

/-- The row of a command packet by its operands (section 7): the rows in the order of their priority. -/
theorem decodeCommand_commandPacket (code : Byte) (p : Payload) (k : Byte) :
    decodeCommand (commandPacket code p k) =
      if code = codeReadCo2 ∧ p = payloadReadCo2 ∧ k = 0x79 then .ok .cmdReadCo2
      else if code = codeSetAbc ∧ p = payloadSetAbc true then .ok (.cmdSetAbc true k)
      else if code = codeSetAbc ∧ p = payloadSetAbc false then .ok (.cmdSetAbc false k)
      else .ok (.cmdFrame code p k) := by
  refine (if_neg (not_not_intro rfl)).trans ((if_neg (not_not_intro rfl)).trans ?_)
  rw [payload_eta p]
  refine if_congr ?_ rfl (if_congr ?_ rfl (if_congr ?_ rfl rfl))
  all_goals simp [commandPacket, payloadReadCo2, payloadSetAbc, abcByte, and_assoc]

theorem decodeCommand_of_general {code : Byte} {p : Payload} (h : isPublicCommand code p = false) (k : Byte) :
    decodeCommand (commandPacket code p k) = .ok (.cmdFrame code p k) := by
  simp only [isPublicCommand, Bool.or_eq_false_iff, Bool.and_eq_false_imp, beq_iff_eq, beq_eq_false_iff_ne] at h
  obtain ⟨hread, habc⟩ := h
  rw [decodeCommand_commandPacket, if_neg fun hc => hread hc.1 hc.2.1, if_neg fun hc => (habc hc.1).1 hc.2,
    if_neg fun hc => (habc hc.1).2 hc.2]

theorem decodeCommand_of_setAbc (en : Bool) (k : Byte) :
    decodeCommand (commandPacket codeSetAbc (payloadSetAbc en) k) = .ok (.cmdSetAbc en k) := by
  rw [decodeCommand_commandPacket, if_neg fun hc => absurd hc.1 (by decide)]
  cases en
  · rw [if_neg (by decide), if_pos (by decide)]
  · rw [if_pos (by decide)]

/-- The row of a response packet by its operands (section 7): only the echo decides. -/
theorem decodeResponse_responsePacket (echo : Byte) (q : Vector Byte 6) (k : Byte) :
    decodeResponse (responsePacket echo q k) =
      if echo = codeReadCo2 then .ok (.rspReadCo2 q[0] q[1] #v[q[2], q[3], q[4], q[5]] k) else .ok (.rspFrame echo q k) := by
  refine (if_neg (not_not_intro rfl)).trans ?_
  rw [vector6_eta q]
  rfl

/-- A request's row reads just the fields its operation has. A packet of a row with priority is never passed over, and a
well-formed packet of a general row is none of a row with priority over it (section 7). -/
theorem decode_encode {i : Instr} (h : i.wf = true) : decode (encode i) = .ok i := by
  cases i with
  | readCo2 => rfl
  | setAbc en => rfl
  | sendCmd code p => rfl
  | recvResp => rfl
  | cmdReadCo2 => rfl
  | cmdSetAbc en k => exact decodeCommand_of_setAbc en k
  | cmdFrame code p k =>
    have hgeneral : isPublicCommand code p = false := by simpa using (Bool.and_eq_true_iff.mp h).2
    exact decodeCommand_of_general hgeneral k
  | rspReadCo2 hi lo q k =>
    refine (decodeResponse_responsePacket _ _ _).trans ((if_pos rfl).trans ?_)
    conv_rhs => rw [vector4_eta q]
    rfl
  | rspFrame echo q k =>
    have hecho : echo ≠ codeReadCo2 := by simpa using (Bool.and_eq_true_iff.mp h).2
    exact (decodeResponse_responsePacket _ _ _).trans (if_neg hecho)

/-- Settles O1: the word holds all of the encoding, and the encoding decodes to the instruction. -/
theorem decodeOfEncodedWordIsTheInstruction : Obligations.DecodeOfEncodedWordIsTheInstruction := fun i h =>
  (decodeWord_encodeWord i).trans (decode_encode h)

/-! ## Fixed bytes -/

theorem decodeCommand_of_badStart {p : Packet} (h : p[0] ≠ sentinel) : decodeCommand p = .error (.badStartMarker p[0]) :=
  if_pos h

theorem decodeCommand_of_badReserved {p : Packet} (h0 : p[0] = sentinel) (h1 : p[1] ≠ reservedByte) :
    decodeCommand p = .error (.badReservedByte p[1]) :=
  (if_neg (not_not_intro h0)).trans (if_pos h1)

theorem decodeCommand_ok {p : Packet} (h0 : p[0] = sentinel) (h1 : p[1] = reservedByte) : ∃ i, decodeCommand p = .ok i := by
  rw [packet_eta p, h0, h1]
  change ∃ i, decodeCommand (commandPacket p[2] #v[p[3], p[4], p[5], p[6], p[7]] p[8]) = .ok i
  rw [decodeCommand_commandPacket]
  split_ifs
  all_goals exact ⟨_, rfl⟩

theorem decodeCommand_ok_iff (p : Packet) : (∃ i, decodeCommand p = .ok i) ↔ p[0] = sentinel ∧ p[1] = reservedByte := by
  refine ⟨fun ⟨i, hi⟩ => ?_, fun ⟨h0, h1⟩ => decodeCommand_ok h0 h1⟩
  have h0 : p[0] = sentinel := by
    by_contra h0
    simp [decodeCommand_of_badStart h0] at hi
  refine ⟨h0, ?_⟩
  by_contra h1
  simp [decodeCommand_of_badReserved h0 h1] at hi

theorem decodeResponse_of_badStart {p : Packet} (h : p[0] ≠ sentinel) : decodeResponse p = .error (.badStartMarker p[0]) :=
  if_pos h

theorem decodeResponse_ok_iff (p : Packet) : (∃ i, decodeResponse p = .ok i) ↔ p[0] = sentinel := by
  refine ⟨fun ⟨i, hi⟩ => ?_, fun h0 => ?_⟩
  · by_contra h0
    simp [decodeResponse_of_badStart h0] at hi
  · rw [packet_eta p, h0]
    change ∃ i, decodeResponse (responsePacket p[1] #v[p[2], p[3], p[4], p[5], p[6], p[7]] p[8]) = .ok i
    rw [decodeResponse_responsePacket]
    split_ifs
    all_goals exact ⟨_, rfl⟩

/-- Settles O2: after the fixed bytes the decoder rejects nothing. -/
theorem packetIsDecodedExactlyWhenItsFixedBytesAreRight : Obligations.PacketIsDecodedExactlyWhenItsFixedBytesAreRight :=
  fun p => ⟨decodeCommand_ok_iff p, decodeResponse_ok_iff p,
    fun h => ⟨decodeCommand_of_badStart h, decodeResponse_of_badStart h⟩, decodeCommand_of_badReserved⟩

/-! ## Requests -/

/-- The decoder of requests reads the operation and only that operation's fields (R55, R56). -/
theorem decodeRequest_congr {r r' : Request} (hop : r.op = r'.op) (hset : r.op = 1 → r.en = r'.en)
    (hsend : r.op = 2 → r.code = r'.code ∧ r.payload = r'.payload) : decodeRequest r = decodeRequest r' := by
  unfold decodeRequest
  rw [← hop]
  split
  · rfl
  split
  · rename_i h1
    rw [hset h1]
  split
  · rename_i h2
    rw [(hsend h2).1, (hsend h2).2]
  · rfl

/-- Settles O4: the two requests are the same instruction, and every request is an acceptance. -/
theorem requestFieldNotReadHasNoEffect : Obligations.RequestFieldNotReadHasNoEffect := by
  intro r r' s hop hset hsend
  refine ⟨by rw [decodeRequest_congr hop hset hsend], fun hidle hbound => ?_⟩
  obtain ⟨act, hact⟩ := exec_request_eq_accept r
  exact ⟨_, (hact s).trans (acceptWhenIdle_of_idle hidle hbound)⟩

/-! ## The spec's own words and packets -/

/-- Settles O3: every word is a literal, so the decoder is evaluated on each. -/
theorem wordsOfTheSpecDecode : Obligations.WordsOfTheSpecDecode := by
  unfold Obligations.WordsOfTheSpecDecode
  decide

/-- Settles O11: the packets have no operand left, so `frame` is evaluated with its checksum. -/
theorem publicCommandPackets : Obligations.PublicCommandPackets := by
  unfold Obligations.PublicCommandPackets
  decide

end Sys2Proof.Machine

/-! # The checksum -/
namespace Sys2Proof.Machine

/-! ## The accumulator -/

/-- Settles O6: each micro-operation is written as its rule states it. -/
theorem accumulatorMicroOperations : Obligations.AccumulatorMicroOperations :=
  fun _ _ => ⟨rfl, rfl, rfl⟩

/-- The order of the additions shows in the sum of the list alone (R76). -/
theorem acc_foldl_opCk8Add (l : List Byte) (s : State) :
    (l.foldl (fun s b => opCk8Add b s) s).acc = s.acc + l.sum := by
  induction l generalizing s with
  | nil => simp
  | cons b l ih => simp only [List.foldl_cons, ih, opCk8Add_acc, ck8Add_eq_add, List.sum_cons, add_assoc]

theorem sum_spanBytes (p : Packet) : (spanBytes p).sum = spanSum p := by
  simp [spanBytes, spanSum_eq_add, add_assoc]

/-- Settles O7: a sum does not depend on the order of its terms, and the read-out negates it. -/
theorem accumulatorComputesChecksumInAnyOrder : Obligations.AccumulatorComputesChecksumInAnyOrder := by
  intro p l s hperm
  have hsum : l.sum = spanSum p := hperm.sum_eq.trans (sum_spanBytes p)
  have hacc : (l.foldl (fun s b => opCk8Add b s) (opCk8Clr s)).acc = spanSum p := by
    rw [acc_foldl_opCk8Add, opCk8Clr_acc, hsum, ck8Clr, zero_add]
  refine ⟨hacc, ?_⟩
  rw [opCk8Out, hacc, ck8Out_eq_neg, ck8_eq_neg_spanSum]

/-! ## The function CK8 -/

/-- R70: the bitwise complement is the difference from FF, and one more than it is the negation. -/
theorem eq_checksum_expressions {x s : Byte} (h : x = -s) : x = 0xFF - s + 1 ∧ x = -s ∧ x = ~~~s + 1 := by
  have hcompl : 0xFF - s = ~~~s := BitVec.allOnes_sub_eq_not s
  have hneg : x = ~~~s + 1 := h.trans (BitVec.neg_eq_not_add s)
  exact ⟨hcompl ▸ hneg, h, hneg⟩

/-- Settles O5: the accumulator's read-out and CK8 are negations, of any byte and of the span's sum. -/
theorem checksumExpressionsAreEqual : Obligations.ChecksumExpressionsAreEqual :=
  ⟨fun s => eq_checksum_expressions (ck8Out_eq_neg s), fun p => eq_checksum_expressions (ck8_eq_neg_spanSum p)⟩

/-- A byte completes the span to a multiple of 256 exactly when it is CK8 (R77). -/
theorem spanTotal_add_mod_eq_zero_iff (p : Packet) (b : Byte) : (spanTotal p + b.toNat) % 256 = 0 ↔ b = ck8 p := by
  have hsum : (spanSum p + b).toNat = (spanTotal p + b.toNat) % 256 := by
    simp [spanSum]
  rw [ck8_eq_neg_spanSum, eq_neg_iff_add_eq_zero, add_comm b, BitVec.toNat_eq, hsum]
  rfl

/-- Settles O8: the check law is the converse's case of the byte CK8 itself. -/
theorem checksumCheckLaw : Obligations.ChecksumCheckLaw :=
  fun p => ⟨(spanTotal_add_mod_eq_zero_iff p (ck8 p)).mpr rfl, (spanTotal_add_mod_eq_zero_iff p p[8]).symm⟩

/-! ## Changed bytes -/

/-- CK8 does not read the start marker (R71, R78). -/
theorem ck8_set_zero (p : Packet) (b : Byte) : ck8 (p.set 0 b) = ck8 p := by
  simp [ck8, spanTotal]

/-- CK8 does not read the checksum byte (R71, R78). -/
theorem ck8_set_eight (p : Packet) (b : Byte) : ck8 (p.set 8 b) = ck8 p := by
  simp [ck8, spanTotal]

/-- Each byte of the span is one term of its sum. -/
theorem spanSum_set_add (p : Packet) {i : Nat} (hi : 1 ≤ i ∧ i ≤ 7) (d : Byte) :
    spanSum (p.set i (p[i] + d)) = spanSum p + d := by
  have : i = 1 ∨ i = 2 ∨ i = 3 ∨ i = 4 ∨ i = 5 ∨ i = 6 ∨ i = 7 := by omega
  rcases this with rfl | rfl | rfl | rfl | rfl | rfl | rfl <;>
    simp [spanSum_eq_add] <;> ring

theorem ck8_set_add (p : Packet) {i : Nat} (hi : 1 ≤ i ∧ i ≤ 7) (d : Byte) :
    ck8 (p.set i (p[i] + d)) = ck8 p - d := by
  rw [ck8_eq_neg_spanSum, spanSum_set_add p hi, neg_add', ← ck8_eq_neg_spanSum]

/-! ## Corner values -/

theorem ck8_of_spanSum_eq {p : Packet} {x : Byte} (h : spanSum p = x) : ck8 p = -x :=
  (ck8_eq_neg_spanSum p).trans (congrArg (-·) h)

theorem spanSum_of_spanTotal_eq {p : Packet} {n : Nat} (h : spanTotal p = n) : spanSum p = BitVec.ofNat 8 (n % 256) :=
  congrArg (fun n => BitVec.ofNat 8 (n % 256)) h

/-- Settles O9: the corner packets' sums are literals, 00 and 80 are their own negations, and CK8 passes a change of
its span on negated. -/
theorem checksumCornerCasesAndDetection : Obligations.ChecksumCornerCasesAndDetection := by
  refine ⟨fun a b => ⟨?_, ?_, ?_, ?_⟩, fun p => ⟨fun h256 => ?_, fun h80 => ?_⟩,
    fun p b => ⟨ck8_set_zero p b, ck8_set_eight p b⟩, fun p i hi d hd => ?_⟩
  · exact ck8_of_spanSum_eq (x := 0x00) (by simp [spanSum_eq_add])
  · exact ck8_of_spanSum_eq (x := 0xF9) (by simp [spanSum_eq_add])
  · exact ck8_of_spanSum_eq (x := 0x00) (by simp [spanSum_eq_add])
  · exact ck8_of_spanSum_eq (x := 0x80) (by simp [spanSum_eq_add])
  · have hsum : spanSum p = 0x00 := spanSum_of_spanTotal_eq h256
    exact ⟨hsum, ck8_of_spanSum_eq hsum⟩
  · have hck : ck8 p = 0x80 := ck8_of_spanSum_eq h80
    exact ⟨hck, hck.trans h80.symm⟩
  · rw [ck8_set_add p hi]
    exact ⟨rfl, fun heq => hd (sub_eq_self.mp heq)⟩

end Sys2Proof.Machine

/-! # Framing and transmission -/
namespace Sys2Proof.Machine

/-! ## Framing -/

/-- Settles O10: the checksum byte, which is CK8 of the packet with 0 in its place, is CK8 of the packet itself. -/
theorem framedPacketLayout : Obligations.FramedPacketLayout := by
  intro code p
  have hck : ck8 (frame code p) = ck8 (commandPacket code p 0) := ck8_commandPacket code p _
  rw [hck]
  rfl

theorem exec_sendCmd (code : Byte) (p : Payload) (s : State) : exec (.sendCmd code p) s = execSendCmd code p s := rfl

/-- Settles O15: an idle, bound block accepts, and acceptance frames the packet; the span's sum does not see its checksum byte. -/
theorem sendCmdIsAcceptedWhenIdle : Obligations.SendCmdIsAcceptedWhenIdle := by
  intro s code p hidle hbound
  have hsum : spanSum (frame code p) = spanSum (commandPacket code p 0) := spanSum_commandPacket code p _
  rw [← framedPacketLayout code p, hsum, exec_sendCmd, execSendCmd, acceptWhenIdle_of_idle hidle hbound, frameTx_eq]

/-! ## One sink call -/

theorem onSinkAnswer_ok_before_last (b : Byte) {s : State} (hi : s.txIdx < 8) :
    onSinkAnswer b .ok s = { record (.sink b .ok) s with txIdx := s.txIdx + 1 } := by
  rw [onSinkAnswer_ok, if_neg (by omega)]

theorem onSinkAnswer_ok_last (b : Byte) {s : State} (hi : s.txIdx = 8) :
    onSinkAnswer b .ok s = afterLastSink { record (.sink b .ok) s with txIdx := 9 } := by
  rw [onSinkAnswer_ok, hi, if_pos rfl]

theorem onSinkAnswer_fail (b : Byte) (s : State) :
    onSinkAnswer b .fail s = finishNoValue .writeFailure (record (.sink b .fail) s) := rfl

theorem afterLastSink_of_readCo2 {s : State} (ho : s.op = .readCo2) :
    afterLastSink s = { s with rxIdx := 0, phase := .receiving } := if_pos ho

theorem afterLastSink_of_sendOnly {s : State} (ho : s.op ≠ .readCo2) : afterLastSink s = finishNoValue .none s := if_neg ho

/-- A command packet's step whose call is answered (R82, R87). -/
theorem exec_of_sink_answer {i : Instr} {p : Packet} {s : State} {t : Transport} {a : SinkAnswer} {rest : List SinkAnswer}
    (henc : encode i = .command p) (hp : s.phase = .sending) (hi : s.txIdx < 9) (ht : s.transport = some t)
    (ha : t.sink = a :: rest) :
    exec i s = .next (onSinkAnswer p[s.txIdx] a { s with transport := some { t with sink := rest } }) :=
  (exec_of_command henc s).trans (transmit_of_answer hp hi ht ha)

/-- Settles O18: an OK before the ninth is recorded and counted. -/
theorem commandByteIsSent : Obligations.CommandByteIsSent := by
  intro i p s t rest henc hp hi ht ha
  rw [exec_of_sink_answer henc hp (by omega) ht ha, onSinkAnswer_ok_before_last _ (by exact hi)]
  rfl

/-- Settles O19: the ninth OK is recorded and counted, and the operation decides what follows it. -/
theorem commandLastByteIsSent : Obligations.CommandLastByteIsSent := by
  intro i p s t rest henc hp hi ht ha
  have hexec : exec i s = .next (afterLastSink
      { s with transport := some { t with sink := rest }, txIdx := 9, history := s.history ++ [.sink p[8] .ok] }) := by
    rw [exec_of_sink_answer henc hp (by omega) ht ha, onSinkAnswer_ok_last _ (by exact hi)]
    simp only [hi]
    rfl
  rw [hexec]
  refine ⟨fun hread => ?_, fun hsend => ?_⟩
  · rw [afterLastSink_of_readCo2 (by exact hread)]
  · rw [afterLastSink_of_sendOnly (by exact hsend), finishNoValue_eq, List.append_assoc]
    exact ⟨_, _, _, rfl⟩

/-- Settles O20: a FAIL is recorded, and the operation completes at once. -/
theorem sinkFailureEndsTheOperation : Obligations.SinkFailureEndsTheOperation := by
  intro i p s t rest henc hp hi ht ha
  rw [exec_of_sink_answer henc hp hi ht ha, onSinkAnswer_fail, finishNoValue_eq, record_history, List.append_assoc]
  exact ⟨_, _, _, rfl⟩

theorem validate_of_not_enabled {p : Packet} {s : State} (h : s.phase ≠ .validating) :
    validate p s = .refused .stepNotEnabled := if_neg h

/-- Settles O29: a command packet is a transmission step and a response packet a validation step, whatever the row. -/
theorem packetStepIsEnabledInItsPhaseOnly : Obligations.PacketStepIsEnabledInItsPhaseOnly := by
  intro i p s
  refine ⟨fun henc hoff => ?_, fun henc hoff => ?_⟩
  · rw [exec_of_command henc]
    refine transmit_of_not_enabled fun ⟨hp, hi⟩ => ?_
    exact hoff.elim (fun hne => hne hp) fun h9 => absurd hi h9.not_gt
  · rw [exec_of_response henc, validate_of_not_enabled hoff]

/-! ## A whole transmission -/

/-- The block has accepted a sending request, with nothing from the host to come: the whole packet `p` is still to be sent. -/
structure ReadyToSend (s : State) (o : Op) (p : Packet) : Prop where
  host : s.host = []
  phase : s.phase = .sending
  txIdx : s.txIdx = 0
  history : s.history = []
  op : s.op = o
  tx : s.tx = p

/-- The first step of a sending request's run (R79 to R81, R103, R108). -/
theorem step_of_sending_request {s : State} {r : Request} {p : Packet} (hidle : s.phase = .idle)
    (hhost : s.host = [some (.request r)]) (hbound : s.transport ≠ none) (hpkt : packetOf r = some p) :
    ∃ s', step s = .next s' ∧ s'.transport = s.transport ∧ ReadyToSend s' (opOf r) p := by
  obtain ⟨act, hact⟩ := exec_request_eq_accept r
  obtain ⟨s', hs'⟩ : ∃ s', exec (decodeRequest r) { s with host := [] } = .next s' :=
    ⟨_, (hact _).trans (acceptWhenIdle_of_idle hidle hbound)⟩
  refine ⟨s', (step_of_host_request hhost).trans hs', ?_⟩
  obtain ⟨-, -, ⟨ho, rfl⟩ | ⟨ho, rfl⟩ | ⟨ho, rfl⟩ | ⟨ho, rfl⟩⟩ := exec_request_next hs'
  case inr.inr.inr => simp [packetOf, opOf, ho] at hpkt
  all_goals
    refine ⟨rfl, rfl, rfl, rfl, rfl, by simp [opOf, ho], ?_⟩
    simpa [packetOf, opOf, ho] using hpkt

/-- `s` once the first `n` bytes of its packet have been sent, with the answers of `t` left. -/
def afterSent (n : Nat) (t : Transport) (s : State) : State :=
  { s with transport := some t, txIdx := n, history := sinkEvents s.tx n }

/-- A byte's event goes after those of the bytes before it. -/
theorem record_afterSent {n : Nat} (hn : n < 9) (t : Transport) (s : State) :
    { record (.sink s.tx[n] .ok) (afterSent n t s) with txIdx := n + 1 } = afterSent (n + 1) t s := by
  rw [afterSent, afterSent, sinkEvents_succ _ _ hn]
  rfl

section Transmission
variable {s : State} {o : Op} {p : Packet} {rest : List SinkAnswer} {src : List SourceAnswer} {n : Nat}

theorem afterSent_zero {t : Transport} (h : ReadyToSend s o p) (ht : s.transport = some t) : afterSent 0 t s = s := by
  rw [afterSent, sinkEvents_zero, ← h.history, ← h.txIdx, ← ht]

/-- The call for byte `n`, once the bytes before it have been sent. -/
theorem step_afterSent (h : ReadyToSend s o p) (hn : n < 9) (a : SinkAnswer) :
    step (afterSent n ⟨a :: rest, src⟩ s) = .next (onSinkAnswer s.tx[n] a (afterSent n ⟨rest, src⟩ s)) :=
  step_of_sink_answer (s := afterSent n ⟨a :: rest, src⟩ s) (t := ⟨a :: rest, src⟩) (a := a) (rest := rest)
    h.host h.phase hn rfl rfl

/-- As long as the packet is not whole, each step sends one byte more. -/
theorem run_sends (h : ReadyToSend s o p) (hn : n < 9)
    (ht : s.transport = some ⟨List.replicate n .ok ++ rest, src⟩) :
    core.run n s = .next (afterSent n ⟨rest, src⟩ s) := by
  induction n generalizing rest with
  | zero => exact congrArg Host.Outcome.next (afterSent_zero h ht).symm
  | succ n ih =>
    have hsplit : List.replicate (n + 1) SinkAnswer.ok ++ rest = List.replicate n .ok ++ .ok :: rest := by
      rw [List.replicate_succ', List.append_assoc]
      rfl
    have hlt : n < 9 := by omega
    rw [run_add (ih hlt (hsplit ▸ ht)) 1, run_succ_of_next (step_afterSent h hlt .ok), run_zero,
      onSinkAnswer_ok_before_last _ (show n < 8 by omega)]
    exact congrArg _ (record_afterSent hlt _ s)

/-- Nine OK answers: the nine calls, and what follows the ninth (R86). -/
theorem run_sends_all (h : ReadyToSend s o p) (ht : s.transport = some ⟨List.replicate 9 .ok ++ rest, src⟩) :
    core.run 9 s = .next (afterLastSink (afterSent 9 ⟨rest, src⟩ s)) := by
  have hrun := run_sends (n := 8) (rest := .ok :: rest) h (by decide) ht
  rw [run_add hrun 1, run_succ_of_next (step_afterSent h (by decide) .ok), run_zero, onSinkAnswer_ok_last _ rfl]
  exact congrArg (fun q => Host.Outcome.next (afterLastSink q)) (record_afterSent (n := 8) (by decide) _ s)

/-- `n` OK answers and a FAIL: the `n + 1` calls and the completion (R83). -/
theorem run_sends_until_fail (h : ReadyToSend s o p) (hn : n < 9)
    (ht : s.transport = some ⟨List.replicate n .ok ++ .fail :: rest, src⟩) :
    core.run (n + 1) s =
      .next (finishNoValue .writeFailure (record (.sink s.tx[n] .fail) (afterSent n ⟨rest, src⟩ s))) := by
  rw [run_add (run_sends h hn ht) 1, run_succ_of_next (step_afterSent h hn .fail), run_zero, onSinkAnswer_fail]

end Transmission

/-- Settles O21: the request's step makes the block ready to send, and each of the calls takes one step. -/
theorem transmissionMakesExactlyTheseCalls : Obligations.TransmissionMakesExactlyTheseCalls := by
  intro s r p rest src hidle hhost hpkt
  refine ⟨fun ht => ?_, fun n hn ht => ?_⟩
  · obtain ⟨s₁, hstep, ht₁, hready⟩ := step_of_sending_request hidle hhost (by simp [ht]) hpkt
    refine ⟨_, (run_succ_of_next hstep 9).trans (run_sends_all hready (ht₁.trans ht)), ?_⟩
    obtain ⟨-, -, -, -, hop, rfl⟩ := hready
    by_cases hread : s₁.op = .readCo2
    · rw [afterLastSink_of_readCo2 (by exact hread)]
      exact ⟨rfl, fun _ => ⟨rfl, rfl⟩, fun hne => absurd (hop ▸ hread) hne⟩
    · rw [afterLastSink_of_sendOnly (by exact hread)]
      exact ⟨rfl, fun heq => absurd (hop.trans heq) hread, fun _ => ⟨rfl, rfl, rfl, rfl⟩⟩
  · obtain ⟨s₁, hstep, ht₁, hready⟩ := step_of_sending_request hidle hhost (by simp [ht]) hpkt
    refine ⟨_, (run_succ_of_next hstep (n + 1)).trans (run_sends_until_fail hready hn (ht₁.trans ht)), ?_⟩
    obtain ⟨-, -, -, -, -, rfl⟩ := hready
    exact ⟨rfl, rfl, rfl, rfl, finishNoValue_record_history _ _ _⟩

end Sys2Proof.Machine

/-! # Reception and validation -/
namespace Sys2Proof.Machine

/-! ## Acceptance -/

theorem exec_recvResp (s : State) : exec .recvResp s = execRecvResp s := rfl

/-- Settles O16: an idle, bound block accepts, and acceptance makes it ready for the first byte. -/
theorem recvRespIsAcceptedWhenIdle : Obligations.RecvRespIsAcceptedWhenIdle := by
  intro s hidle hbound
  rw [exec_recvResp, execRecvResp, acceptWhenIdle_of_idle hidle hbound]

/-! ## One source call -/

section SourceCall
variable {s : State}

/-- A receiving block's step whose call is answered, where the host does nothing (R90). -/
theorem step_of_source_answer_silent {t : Transport} {a : SourceAnswer} {rest : List SourceAnswer}
    (hp : s.phase = .receiving) (hsilent : hostSilent s) (hi : s.rxIdx < 9) (ht : s.transport = some t)
    (ha : t.source = a :: rest) :
    step s = .next (onSourceAnswer a { s with host := s.host.tail, transport := some { t with source := rest } } hi) := by
  rw [step_of_hostSilent hsilent, blockStep_of_receiving (by exact hp)]
  exact receive_of_answer (s := { s with host := s.host.tail }) hp hi ht ha

theorem onSourceAnswer_badStart {b : Byte} (hi : s.rxIdx < 9) (h0 : s.rxIdx = 0) (hb : b ≠ sentinel) :
    onSourceAnswer (.ok b) s hi =
      finishNoValue .invalidStartByte (record (.source (.ok b)) { s with rx := s.rx.set s.rxIdx b hi }) := by
  rw [onSourceAnswer_ok, if_pos ⟨h0, hb⟩]

theorem onSourceAnswer_fail (hi : s.rxIdx < 9) :
    onSourceAnswer .fail s hi = finishNoValue .readFailure (record (.source .fail) s) := rfl

/-- While receiving, the history is the operation's command and the bytes received. -/
theorem StateInv.receiving_history (h : StateInv s) (hp : s.phase = .receiving) :
    s.history = sentBefore s ++ sourceEvents s.rx s.rxIdx := by
  obtain ⟨-, -, -, -, hhist⟩ := h.receiving hp
  exact hhist

theorem source_not_mem_sentBefore (s : State) (a : SourceAnswer) : Event.source a ∉ sentBefore s := by
  unfold sentBefore
  split
  · exact source_not_mem_sinkEvents s.tx 9 a
  · exact List.not_mem_nil

end SourceCall

/-- Settles O22: an OK other than a wrong start byte is stored and counted, and the ninth leads to validation. -/
theorem receivedByteIsStored : Obligations.ReceivedByteIsStored := by
  intro s t b rest hp hsilent hi ht ha hb
  rw [step_of_source_answer_silent hp hsilent hi ht ha, onSourceAnswer_stores _ (by exact hb)]
  simp only [hp, Nat.reduceEqDiff]
  rfl

/-- Settles O23: a wrong start byte is recorded and ends the operation; before it only the command has been sent. -/
theorem wrongStartByteEndsTheOperation : Obligations.WrongStartByteEndsTheOperation := by
  intro s t b rest hp hsilent h0 ht ha hb
  refine ⟨?_, fun hinv => ?_⟩
  · rw [step_of_source_answer_silent hp hsilent (by omega) ht ha, onSourceAnswer_badStart _ (by exact h0) hb,
      finishNoValue_eq, record_history, List.append_assoc]
    simp only [h0]
    exact ⟨_, _, _, rfl⟩
  · have hhist : s.history = sentBefore s := by
      rw [hinv.receiving_history hp, h0, sourceEvents_zero, List.append_nil]
    exact ⟨hhist, fun a => hhist ▸ source_not_mem_sentBefore s a⟩

/-- Settles O24: a FAIL is recorded, and the operation completes at once. -/
theorem sourceFailureEndsTheOperation : Obligations.SourceFailureEndsTheOperation := by
  intro s t rest hp hsilent hi ht ha
  refine ⟨?_, fun hinv => hinv.receiving_history hp⟩
  rw [step_of_source_answer_silent hp hsilent hi ht ha, onSourceAnswer_fail, finishNoValue_eq, record_history,
    List.append_assoc]
  exact ⟨_, _, _, rfl⟩

/-! ## The judgement -/

section Judgement
variable {p : Packet} {ck : Byte} {s : State}

theorem judge_of_badChecksum (h8 : p[8] ≠ ck) : judge p ck s = finishNoValue .badChecksum s := if_pos h8

theorem judge_of_wrongEcho (h8 : p[8] = ck) (ho : s.op = .readCo2) (h1 : p[1] ≠ codeReadCo2) :
    judge p ck s = finishNoValue .invalidResponseCommand s := by
  rw [judge, if_neg (not_not_intro h8), if_pos ho, if_pos h1]

theorem judge_of_readCo2 (h8 : p[8] = ck) (ho : s.op = .readCo2) (h1 : p[1] = codeReadCo2) :
    judge p ck s = finishPpm p s := by
  rw [judge, if_neg (not_not_intro h8), if_pos ho, if_neg (not_not_intro h1)]

theorem judge_of_handOver (h8 : p[8] = ck) (ho : s.op ≠ .readCo2) : judge p ck s = finishResp p s := by
  rw [judge, if_neg (not_not_intro h8), if_neg ho]

/-- A response packet's step is the judgement of the packet against its own checksum (R96). -/
theorem exec_of_received {i : Instr} (henc : encode i = .response p) (hp : s.phase = .validating) :
    exec i s = .next (judge p (ck8 p) { s with acc := spanSum p }) :=
  (exec_of_response henc s).trans (validate_eq hp)

end Judgement

/-- Settles O25: the checksum and the echo are right, so the concentration is decoded. -/
theorem readCo2ResponseIsDecoded : Obligations.ReadCo2ResponseIsDecoded := by
  rintro s hi lo q k p rfl hp ho hk
  rw [exec_of_received rfl hp, judge_of_readCo2 (by exact hk) (by exact ho) rfl, finishPpm_eq]
  exact ⟨_, _, rfl⟩

/-- Settles O26: the checksum is right, so the wrong echo decides. -/
theorem wrongEchoIsReported : Obligations.WrongEchoIsReported := by
  rintro s echo q k p rfl hp ho hk hecho
  rw [exec_of_received rfl hp, judge_of_wrongEcho (by exact hk) (by exact ho) (by exact hecho), finishNoValue_eq]
  exact ⟨_, _, _, rfl⟩

/-- Settles O27: RECV_RESP looks at no echo, so the right checksum is enough. -/
theorem receivedResponseIsHandedOver : Obligations.ReceivedResponseIsHandedOver := by
  intro i s p henc hp ho h8
  have hread : s.op ≠ .readCo2 := by simp [ho]
  rw [exec_of_received henc hp, judge_of_handOver h8 (by exact hread), finishResp_eq]
  exact ⟨_, _, rfl⟩

/-- Settles O28: the checksum is judged before the operation and the echo are looked at. -/
theorem wrongChecksumIsReportedFirst : Obligations.WrongChecksumIsReportedFirst := by
  intro i s p henc hp h8
  rw [exec_of_received henc hp, judge_of_badChecksum h8, finishNoValue_eq]
  exact ⟨_, _, _, rfl⟩

end Sys2Proof.Machine

/-! # The public commands: acceptance, outcomes, and the shape of their transport calls -/
namespace Sys2Proof.Machine

/-! ## Acceptance -/

theorem exec_readCo2 (s : State) : exec .readCo2 s = execReadCo2 s := rfl

theorem exec_setAbc (en : Bool) (s : State) : exec (.setAbc en) s = execSetAbc en s := rfl

/-- R104: READ_CO2's packet. -/
theorem frame_readCo2 : frame codeReadCo2 payloadReadCo2 = #v[0xFF, 0x01, 0x86, 0, 0, 0, 0, 0, 0x79] := by
  obtain ⟨-, -, -, hread, -⟩ := publicCommandPackets
  exact hread

/-- R109: SET_ABC's packet. -/
theorem frame_setAbc (en : Bool) :
    frame codeSetAbc (payloadSetAbc en) =
      #v[0xFF, 0x01, 0x79, if en then 0xA0 else 0, 0, 0, 0, 0, if en then 0xE6 else 0x86] := by
  obtain ⟨-, -, -, -, hon, hoff⟩ := publicCommandPackets
  cases en
  · exact hoff
  · exact hon

theorem spanSum_readCo2 : spanSum (commandPacket codeReadCo2 payloadReadCo2 0) = 0x87 := by decide

theorem spanSum_setAbc (en : Bool) :
    spanSum (commandPacket codeSetAbc (payloadSetAbc en) 0) = if en then 0x1A else 0x7A := by
  cases en <;> decide

/-- Settles O13: an idle, bound block accepts, and acceptance frames READ_CO2's own packet. -/
theorem readCo2IsAcceptedWhenIdle : Obligations.ReadCo2IsAcceptedWhenIdle := by
  intro s hidle hbound
  rw [exec_readCo2, execReadCo2, acceptWhenIdle_of_idle hidle hbound, frameTx_eq, frame_readCo2, spanSum_readCo2]

/-- Settles O14: an idle, bound block accepts, and acceptance frames SET_ABC's own packet. -/
theorem setAbcIsAcceptedWhenIdle : Obligations.SetAbcIsAcceptedWhenIdle := by
  intro s en hidle hbound
  rw [exec_setAbc, execSetAbc, acceptWhenIdle_of_idle hidle hbound, frameTx_eq, frame_setAbc, spanSum_setAbc]

/-! ## The outcomes of each operation -/

theorem not_receives_iff (o : Op) : ¬ receives o ↔ o = .setAbc ∨ o = .sendCmd := by
  cases o <;> simp [receives]

theorem Kind.eq_one_of_six (k : Kind) :
    k = .none ∨ k = .writeFailure ∨ k = .readFailure ∨ k = .invalidStartByte ∨ k = .badChecksum ∨
      k = .invalidResponseCommand := by
  cases k <;> decide

/-- R111: an operation that receives nothing has no outcome of reception or validation. -/
theorem completedWith_of_sendOnly {s : State} {k : Kind} (h : completedWith s k) (ho : ¬ receives s.op) :
    k = .none ∨ k = .writeFailure := by
  cases k with
  | none => exact .inl rfl
  | writeFailure => exact .inr rfl
  | invalidStartByte | badChecksum | readFailure =>
    obtain ⟨hrecv, -⟩ := h
    exact absurd hrecv ho
  | invalidResponseCommand =>
    obtain ⟨hread, -⟩ := h
    exact absurd (.inl hread) ho

/-- R118: RECV_RESP sends no byte that could fail, and expects no particular echo. -/
theorem completedWith_of_recvResp {s : State} {k : Kind} (h : completedWith s k) (ho : s.op = .recvResp) :
    k = .none ∨ k = .readFailure ∨ k = .invalidStartByte ∨ k = .badChecksum := by
  cases k with
  | none => exact .inl rfl
  | readFailure => exact .inr (.inl rfl)
  | invalidStartByte => exact .inr (.inr (.inl rfl))
  | badChecksum => exact .inr (.inr (.inr rfl))
  | writeFailure =>
    obtain ⟨hsend, -⟩ := h
    exact absurd ho hsend
  | invalidResponseCommand =>
    obtain ⟨hread, -⟩ := h
    exact nomatch ho.symm.trans hread

/-- Settles O40: the invariant says of a valid result with which outcome the operation completed. -/
theorem outcomesOfEachOperation : Obligations.OutcomesOfEachOperation := by
  intro s₀ s hinv hstep hvalid
  obtain ⟨-, k, hk, hdone⟩ := (everyStepKeepsTheInvariant s₀ s hinv hstep).completed hvalid
  exact ⟨k, hk, fun _ => k.eq_one_of_six, fun ho => completedWith_of_sendOnly hdone ((not_receives_iff s.op).mpr ho),
    completedWith_of_recvResp hdone⟩

/-! ## The shape of the transport calls -/

/-- No sink call is among the events. -/
def NoSink (l : List Event) : Prop :=
  ∀ b a, Event.sink b a ∉ l

/-- No source call is among the events. -/
def NoSource (l : List Event) : Prop :=
  ∀ a, Event.source a ∉ l

theorem noSink_append {l m : List Event} : NoSink (l ++ m) ↔ NoSink l ∧ NoSink m := by
  simp [NoSink, forall_and]

theorem noSource_append {l m : List Event} : NoSource (l ++ m) ↔ NoSource l ∧ NoSource m := by
  simp [NoSource, forall_and]

/-- Where source calls come last, what follows one of them is among the last. -/
theorem noSink_after_source {sent got h1 h2 : List Event} {a : SourceAnswer} (hs : NoSource sent) (hg : NoSink got)
    (h : sent ++ got = h1 ++ Event.source a :: h2) : NoSink h2 := by
  obtain ⟨_ | ⟨e, m⟩, hsent, hrest⟩ | ⟨m, -, hgot⟩ := List.append_eq_append_iff.mp h.symm
  · have hgot : NoSink (Event.source a :: h2) := by simpa [hrest] using hg
    exact (noSink_append (l := [_]).mp hgot).2
  · obtain ⟨rfl, -⟩ := List.cons_eq_cons.mp hrest
    exact absurd (by simp [hsent]) (hs a)
  · rw [hgot, List.append_cons, noSink_append] at hg
    exact hg.2

/-- The two shapes a history can have (R43, R110, R113): sink calls only, which RECV_RESP's has not, or the command of an
operation that receives and then no sink call any more. -/
inductive CallShape (s : State) : Prop where
  | sends (ho : s.op ≠ .recvResp) (h : NoSource s.history)
  | thenReceives (ho : receives s.op) (got : List Event) (hg : NoSink got) (h : s.history = sentBefore s ++ got)

theorem CallShape.of_bytes_sent {s : State} {n : Nat} {l : List Event} (ho : s.op ≠ .recvResp)
    (h : s.history = sinkEvents s.tx n ++ l) (hl : NoSource l) : CallShape s :=
  .sends ho (h ▸ noSource_append.mpr ⟨source_not_mem_sinkEvents s.tx n, hl⟩)

theorem CallShape.of_bytes_received {s : State} {n : Nat} {l : List Event} (ho : receives s.op)
    (h : s.history = sentBefore s ++ sourceEvents s.rx n ++ l) (hl : NoSink l) : CallShape s :=
  .thenReceives ho _ (noSink_append.mpr ⟨sink_not_mem_sourceEvents s.rx n, hl⟩) (h.trans (List.append_assoc _ _ _))

theorem receivedWhole.callShape {s : State} {k : Kind} (ho : receives s.op) (h : receivedWhole s k) : CallShape s := by
  obtain ⟨-, hhist⟩ := h
  exact .of_bytes_received ho hhist (by simp [NoSink])

theorem completedWith.callShape {s : State} {k : Kind} (h : completedWith s k) : CallShape s := by
  cases k with
  | none =>
    cases ho : s.op <;> simp only [completedWith, ho] at h
    case readCo2 =>
      obtain ⟨hwhole, -⟩ := h
      exact hwhole.callShape (.inl ho)
    case recvResp =>
      obtain ⟨hwhole, -⟩ := h
      exact hwhole.callShape (.inr ho)
    all_goals exact .of_bytes_sent (by simp [ho]) h (by simp [NoSource])
  | writeFailure =>
    obtain ⟨ho, n, hn, hhist⟩ := h
    exact .of_bytes_sent ho hhist (by simp [NoSource])
  | invalidStartByte =>
    obtain ⟨ho, b, -, hhist⟩ := h
    exact .thenReceives ho _ (by simp [NoSink]) hhist
  | badChecksum =>
    obtain ⟨ho, hwhole, -⟩ := h
    exact hwhole.callShape ho
  | readFailure =>
    obtain ⟨ho, n, -, -, hhist⟩ := h
    exact .of_bytes_received ho hhist (by simp [NoSink])
  | invalidResponseCommand =>
    obtain ⟨ho, hwhole, -⟩ := h
    exact hwhole.callShape (.inl ho)

/-- While it runs and once its result is valid, an operation's history has one of the two shapes. -/
theorem StateInv.callShape {s : State} (h : StateInv s) (hop : busy s = true ∨ s.resultValid = true) : CallShape s := by
  obtain hbusy | hvalid := hop
  · cases hp : s.phase with
    | idle => exact absurd hp ((busy_eq_true s).mp hbusy)
    | sending =>
      obtain ⟨-, ho, -, hhist⟩ := h.sending hp
      exact .sends ho (hhist ▸ source_not_mem_sinkEvents s.tx s.txIdx)
    | receiving =>
      obtain ⟨-, ho, -, -, hhist⟩ := h.receiving hp
      exact .thenReceives ho _ (sink_not_mem_sourceEvents s.rx s.rxIdx) hhist
    | validating =>
      obtain ⟨-, ho, -, -, hhist⟩ := h.validating hp
      exact .thenReceives ho _ (sink_not_mem_sourceEvents s.rx 9) hhist
  · obtain ⟨-, k, -, hdone⟩ := h.completed hvalid
    exact completedWith.callShape hdone

theorem sentBefore_of_recvResp {s : State} (ho : s.op = .recvResp) : sentBefore s = [] := by
  simp [sentBefore, ho]

/-- Settles O41: each of the two shapes a history can have rules out the calls the statement rules out. -/
theorem shapesOfTransportCalls : Obligations.ShapesOfTransportCalls := by
  intro s₀ s hinv hstep hop
  cases (everyStepKeepsTheInvariant s₀ s hinv hstep).callShape hop with
  | sends ho h =>
    refine ⟨fun _ => h, fun hrecv => absurd hrecv ho, fun h1 h2 a b c hhist => ?_⟩
    exact absurd (by simp [hhist]) (h a)
  | thenReceives ho got hg h =>
    refine ⟨fun hsend => absurd ho ((not_receives_iff s.op).mpr hsend), fun hrecv => ?_, fun h1 h2 a b c hhist => ?_⟩
    · rw [h, sentBefore_of_recvResp hrecv, List.nil_append]
      exact hg
    · exact noSink_after_source (source_not_mem_sentBefore s) hg (h.symm.trans hhist) b c

end Sys2Proof.Machine

/-! # Outcomes: their codes, the status in use, the hang, and the priority of R119 -/
namespace Sys2Proof.Machine

/-! ## Codes -/

/-- Settles O30: the code of each outcome is written out in the model. -/
theorem outcomeCodes : Obligations.OutcomeCodes :=
  ⟨rfl, rfl, rfl, rfl, rfl, rfl⟩

/-! ## Status codes 6 and 7 -/

/-- A readable status is an outcome's code, so neither 6 nor 7 (R133). -/
def ReadableStatusInUse (s : State) : Prop :=
  s.resultValid = true → s.status.toNat < 6

theorem Completes.status_lt {s s' : State} (h : Completes s s') : s'.status.toNat < 6 := by
  obtain ⟨k, -, -, -, hk, -⟩ := h
  exact hk ▸ k.code_lt

theorem Completes.readableStatusInUse {s s' : State} (h : Completes s s') : ReadableStatusInUse s' := fun _ => h.status_lt

theorem onSinkAnswer_readableStatusInUse {s : State} (h : ReadableStatusInUse s) (b : Byte) (a : SinkAnswer) :
    ReadableStatusInUse (onSinkAnswer b a s) := by
  obtain ⟨-, heq⟩ | ⟨-, -, heq⟩ | ⟨-, -, -, heq⟩ | ⟨-, -, -, heq⟩ := onSinkAnswer_cases b a s <;> rw [heq]
  · exact (finishNoValue_completes _ _).readableStatusInUse
  · exact h
  · exact h
  · exact (finishNoValue_completes _ _).readableStatusInUse

theorem onSourceAnswer_readableStatusInUse {s : State} (h : ReadableStatusInUse s) (a : SourceAnswer) (hi : s.rxIdx < 9) :
    ReadableStatusInUse (onSourceAnswer a s hi) := by
  obtain ⟨-, heq⟩ | ⟨b, -, -, -, heq⟩ | ⟨b, -, -, -, heq⟩ | ⟨b, -, -, -, heq⟩ := onSourceAnswer_cases a s hi <;> rw [heq]
  · exact (finishNoValue_completes _ _).readableStatusInUse
  · exact (finishNoValue_completes _ _).readableStatusInUse
  · exact h
  · exact h

theorem blockStep_readableStatusInUse {s s' : State} (h : ReadableStatusInUse s) (hs : blockStep s = .next s') :
    ReadableStatusInUse s' := by
  obtain rfl | ⟨-, hi, t, a, rest, -, -, rfl⟩ | ⟨-, hi, t, a, rest, -, -, rfl⟩ | ⟨-, rfl⟩ := blockStep_next hs
  · exact h
  · exact onSinkAnswer_readableStatusInUse (s := { s with transport := some { t with sink := rest } }) h _ a
  · exact onSourceAnswer_readableStatusInUse (s := { s with transport := some { t with source := rest } }) h a hi
  · exact (judge_completes _ _ _).readableStatusInUse

/-- An accepted request leaves no result to read (R21). -/
theorem exec_request_noResult {r : Request} {s s' : State} (h : exec (decodeRequest r) s = .next s') :
    s'.resultValid = false := by
  obtain ⟨-, -, ⟨-, rfl⟩ | ⟨-, rfl⟩ | ⟨-, rfl⟩ | ⟨-, rfl⟩⟩ := exec_request_next h <;> rfl

theorem actionStep_readableStatusInUse {a : HostAction} {s s' : State} (h : ReadableStatusInUse s)
    (hs : actionStep a s = .next s') : ReadableStatusInUse s' := by
  obtain ⟨-, rfl⟩ | ⟨t, -, -, rfl⟩ | ⟨v, rfl⟩ := actionStep_next hs
  · exact nofun
  · exact h
  · exact h

theorem step_readableStatusInUse {s s' : State} (h : ReadableStatusInUse s) (hs : step s = .next s') :
    ReadableStatusInUse s' := by
  obtain ⟨l, hl⟩ | ⟨r, rest, -, hr⟩ | ⟨a, rest, -, ha⟩ := step_next hs
  · exact blockStep_readableStatusInUse (s := { s with host := l }) h hl
  · exact fun hv => nomatch hv.symm.trans (exec_request_noResult hr)
  · exact actionStep_readableStatusInUse (s := { s with host := rest }) h ha

theorem readStatus_of_unused {s : State} (hv : s.resultValid = true) (h6 : 6 ≤ s.status.toNat) :
    readStatus s = .error .unusedStatusCode := by
  rw [readStatus, statusDefined, if_pos hv, if_neg h6.not_gt]

/-- Settles O32: only a completion writes `status`, with an outcome's code, and only a completion makes it readable. -/
theorem statusCodesSixAndSevenAreNeverWritten : Obligations.StatusCodesSixAndSevenAreNeverWritten := by
  refine ⟨fun s s' hs => ?_, fun s s' hs h => step_readableStatusInUse h hs, fun s => readStatus_of_unused⟩
  exact (onlyCompletionWritesStatus s s' hs).imp_right fun ⟨_, hc⟩ => Completes.status_lt hc

/-! ## A call that is never answered -/

/-- Settles O34: the wait is a step to the same state, so any number of steps stays there. -/
theorem unansweredCallHangsForEver : Obligations.UnansweredCallHangsForEver := by
  intro s t n hh ht hwait
  obtain ⟨hp, hi, ha⟩ | ⟨hp, hi, ha⟩ := hwait
  · exact ⟨run_of_step_self (step_waits_for_sink hh hp hi ht ha) n, by simp [hp]⟩
  · exact ⟨run_of_step_self (step_waits_for_source hh hp hi ht ha) n, by simp [hp]⟩

/-! ## The outcome of a trace is that of the priority

A trace takes the bytes and the answers in turn, `outcome` looks at the answers only; both end the same way. -/

theorem sendTrace_outcome (bs : List Byte) (sink : List SinkAnswer) (src : List SourceAnswer) :
    (sendTrace bs sink src).outcome = sendOutcome bs.length sink := by
  fun_induction sendTrace bs sink src with
  | case1 => rfl
  | case2 => rfl
  | case3 _ _ _ _ ih => exact ih
  | case4 => rfl

/-- A transmission takes no byte from the source (R110). -/
theorem sendTrace_left_source (bs : List Byte) (sink : List SinkAnswer) (src : List SourceAnswer) :
    (sendTrace bs sink src).left.source = src := by
  fun_induction sendTrace bs sink src with
  | case1 => rfl
  | case2 => rfl
  | case3 _ _ _ _ ih => exact ih
  | case4 => rfl

/-- The outcome of a reception that has the bytes `got` after the start marker, by what the calls to come collect. -/
def collectedOutcome (o : Op) (got : List Byte) : Option (List Byte) → Kind
  | none => .readFailure
  | some bs => judgeOutcome o (got ++ bs)

theorem receiveOutcome_ok (o : Op) (b : Byte) (rest : List SourceAnswer) :
    receiveOutcome o (.ok b :: rest) =
      if b ≠ sentinel then some .invalidStartByte else (collect 8 rest).map (collectedOutcome o []) := by
  have hmatch : (fun r : Option (List Byte) => match r with | none => Kind.readFailure | some bs => judgeOutcome o bs) =
      collectedOutcome o [] := by
    funext r
    cases r <;> rfl
  rw [← hmatch]
  rfl

/-- A byte collected first is a byte already had. -/
theorem collectedOutcome_cons (o : Op) (got : List Byte) (b : Byte) (r : Option (List Byte)) :
    collectedOutcome o got (r.map (b :: ·)) = collectedOutcome o (got ++ [b]) r := by
  cases r with
  | none => rfl
  | some bs => simp [collectedOutcome]

theorem packetOfBytes_of_length {bs : List Byte} (h : bs.length = 9) : ∃ p, packetOfBytes bs = .ok p :=
  ⟨⟨bs.toArray, h⟩, packetOfBytes_toList ⟨bs.toArray, h⟩⟩

theorem judgeTrace_outcome (o : Op) {bs : List Byte} (h : bs.length = 8) (sink : List SinkAnswer) (src : List SourceAnswer) :
    (judgeTrace o (sentinel :: bs) sink src).outcome = some (judgeOutcome o bs) := by
  obtain ⟨p, hp⟩ := packetOfBytes_of_length (bs := sentinel :: bs) (by simp [h])
  simp only [judgeTrace, judgeOutcome, hp]
  split_ifs <;> rfl

/-- Once the start marker is in, the outcome is that of the bytes still collected. -/
theorem receiveTrace_outcome_of_started (o : Op) (sink : List SinkAnswer) {n : Nat} {got : List Byte}
    (h : got.length + n = 8) (src : List SourceAnswer) :
    (receiveTrace o sink n (sentinel :: got) src).outcome = (collect n src).map (collectedOutcome o got) := by
  induction n generalizing got src with
  | zero =>
    simp only [receiveTrace, collect, Option.map_some, collectedOutcome, List.append_nil]
    exact judgeTrace_outcome o h sink src
  | succ n ih =>
    match src with
    | [] => rfl
    | .fail :: rest => rfl
    | .ok b :: rest =>
      have hstep : (receiveTrace o sink (n + 1) (sentinel :: got) (.ok b :: rest)).outcome =
          (receiveTrace o sink n (sentinel :: (got ++ [b])) rest).outcome := by
        rw [receiveTrace, if_neg (by simp), Trace.after, List.cons_append]
      rw [hstep, ih (by simp; omega), collect, Option.map_map]
      exact congrArg (fun f => (collect n rest).map f) (funext fun r => (collectedOutcome_cons o got b r).symm)

theorem receiveTrace_outcome (o : Op) (sink : List SinkAnswer) (src : List SourceAnswer) :
    (receiveTrace o sink 9 [] src).outcome = receiveOutcome o src := by
  match src with
  | [] => rfl
  | .fail :: rest => rfl
  | .ok b :: rest =>
    rw [receiveOutcome_ok, receiveTrace]
    by_cases hb : b = sentinel
    · rw [if_neg (by simp [hb]), if_neg (by simp [hb]), hb]
      exact receiveTrace_outcome_of_started o sink (got := []) rfl rest
    · rw [if_pos ⟨rfl, hb⟩, if_pos hb]

theorem outcome_of_sendOnly {o : Op} (hread : o ≠ .readCo2) (hrecv : o ≠ .recvResp) (t : Transport) :
    outcome o t = sendOutcome 9 t.sink := by
  obtain rfl | rfl := op_eq_of_sendOnly hread hrecv <;> rfl

theorem outcome_readCo2 (t : Transport) :
    outcome .readCo2 t =
      if sendOutcome 9 t.sink = some .none then receiveOutcome .readCo2 t.source else sendOutcome 9 t.sink := by
  rw [outcome]
  split
  · rename_i h
    rw [if_pos h]
  · rename_i h
    rw [if_neg h]

/-- READ_CO2 has the outcome of its reception where every byte was sent, and every other transmission its own. -/
theorem thenReceive_outcome {o : Op} (ho : o ≠ .recvResp) (p : Packet) (t : Transport) :
    ((sendTrace p.toList t.sink t.source).thenReceive o).outcome = outcome o t := by
  have hsend : (sendTrace p.toList t.sink t.source).outcome = sendOutcome 9 t.sink := by
    rw [sendTrace_outcome, Vector.length_toList]
  by_cases hread : o = .readCo2
  · rw [hread, outcome_readCo2, Trace.thenReceive, hsend]
    by_cases hall : sendOutcome 9 t.sink = some .none
    · rw [if_pos ⟨rfl, hall⟩, if_pos hall, sendTrace_left_source]
      exact receiveTrace_outcome .readCo2 _ t.source
    · rw [if_neg fun hc => hall hc.2, if_neg hall, hsend]
  · rw [Trace.thenReceive_of_sendOnly hread, outcome_of_sendOnly hread ho, hsend]

theorem packetOf_eq_none_iff (r : Request) : packetOf r = none ↔ opOf r = .recvResp := by
  unfold packetOf
  split <;> simp [*]

theorem operationTrace_outcome (r : Request) (t : Transport) : (operationTrace r t).outcome = outcome (opOf r) t := by
  cases hp : packetOf r with
  | none =>
    rw [operationTrace_of_receives hp, (packetOf_eq_none_iff r).mp hp]
    exact receiveTrace_outcome .recvResp t.sink t.source
  | some p =>
    rw [operationTrace_of_sends hp]
    exact thenReceive_outcome (fun hrecv => nomatch hp.symm.trans ((packetOf_eq_none_iff r).mpr hrecv)) p t

/-! ## The outcome in what the host sees -/

section View
variable {s : State} {o : Op} {l : Option PortValue} {q : Trace}

theorem completed_of_view {k : Kind} (hv : hostView s = q.view o l) (hq : q.outcome = some k) :
    s.phase = .idle ∧ s.resultValid = true ∧ s.status = k.code := by
  rw [Trace.view, hq] at hv
  have hbusy : busy s = false := congrArg HostView.busy hv
  have hvalid : s.resultValid = true := congrArg HostView.resultValid hv
  have hstatus : (if statusDefined s then some s.status else none) = some k.code := congrArg HostView.status hv
  rw [if_pos (by exact hvalid)] at hstatus
  exact ⟨(busy_eq_false s).mp hbusy, hvalid, Option.some.inj hstatus⟩

theorem hanging_of_view (hv : hostView s = q.view o l) (hq : q.outcome = none) : busy s = true ∧ s.resultValid = false := by
  rw [Trace.view, hq] at hv
  exact ⟨congrArg HostView.busy hv, congrArg HostView.resultValid hv⟩

end View

/-- Settles O42: after the acceptance the block settles as the operation's trace says, whose outcome is that of the priority. -/
theorem operationEndsWithTheOutcomeOfThePriority : Obligations.OperationEndsWithTheOutcomeOfThePriority := by
  intro s r t hidle hhost ht
  obtain ⟨s₁, hstep, m, s', hm, hrun, -, hview, hstays⟩ := settles_of_request hidle hhost ht
  refine ⟨m + 1, s', Nat.le_add_left 1 m, Nat.succ_le_succ hm, (run_succ_of_next hstep m).trans hrun, ?_⟩
  rw [viewAfter_eq_view] at hview
  rw [← operationTrace_outcome]
  split
  · rename_i k hk
    exact completed_of_view hview hk
  · rename_i hnone
    obtain ⟨hbusy, hresult⟩ := hanging_of_view hview hnone
    exact ⟨hbusy, hresult, run_of_step_self (hstays hbusy)⟩

end Sys2Proof.Machine

/-! # Reset and binding -/
namespace Sys2Proof.Machine

/-! ## Reset -/

theorem step_of_host_reset {s : State} {rest : List (Option HostAction)} (h : s.host = some .reset :: rest) :
    step s = .next (hostReset { s with host := rest }) := by
  rw [step_of_host_action (by nofun) h, actionStep]

/-- Settles O46: the whole state after a reset is known but for the answer of the call in progress. -/
theorem resetAbandonsTheOperation : Obligations.ResetAbandonsTheOperation := by
  intro s rest h
  obtain ⟨tr, d, heq, htr⟩ := hostReset_eq { s with host := rest }
  refine ⟨_, step_of_host_reset h, ?_⟩
  rw [heq]
  exact ⟨rfl, rfl, rfl, rfl, rfl, rfl, htr⟩

/-! ## A request after a reset -/

/-- A reset may lose an answer of the transport, never the transport (log 5). -/
theorem hostReset_bound {s : State} (h : s.transport ≠ none) : (hostReset s).transport ≠ none := by
  obtain ⟨tr, d, heq, rfl | ⟨-, rfl⟩ | ⟨-, rfl⟩⟩ := hostReset_eq s <;> rw [heq]
  · exact h
  · exact Option.map_eq_none_iff.not.mpr h
  · exact Option.map_eq_none_iff.not.mpr h

theorem hostReset_host (s : State) : (hostReset s).host = s.host := by
  obtain ⟨tr, d, heq, -⟩ := hostReset_eq s
  rw [heq]

/-- An accepted request begins its own operation: its op is latched, no result is valid and its history is empty. -/
theorem exec_request_begins {r : Request} {s s' : State} (h : exec (decodeRequest r) s = .next s') :
    busy s' = true ∧ s'.op = opOf r ∧ s'.resultValid = false ∧ s'.history = [] := by
  obtain ⟨-, -, ⟨ho, rfl⟩ | ⟨ho, rfl⟩ | ⟨ho, rfl⟩ | ⟨ho, rfl⟩⟩ := exec_request_next h <;>
    exact ⟨rfl, by simp [opOf, ho], rfl, rfl⟩

theorem exec_request_of_idle (r : Request) {s : State} (hp : s.phase = .idle) (ht : s.transport ≠ none) :
    ∃ s', exec (decodeRequest r) s = .next s' := by
  obtain ⟨act, hact⟩ := exec_request_eq_accept r
  exact ⟨_, (hact s).trans (acceptWhenIdle_of_idle hp ht)⟩

/-- Settles O47: the reset leaves the block idle and bound, with the request next at its port. -/
theorem boundBlockAcceptsAnyRequestAfterReset : Obligations.BoundBlockAcceptsAnyRequestAfterReset := by
  intro s r hbound hhost
  let u := hostReset { s with host := [some (.request r)] }
  have hreset : step s = .next u := step_of_host_reset hhost
  have hubound : u.transport ≠ none := hostReset_bound hbound
  obtain ⟨s', hs'⟩ := exec_request_of_idle r (s := { u with host := [] }) rfl hubound
  have hrequest : step u = .next s' := (step_of_host_request (hostReset_host _)).trans hs'
  exact ⟨s', (run_succ_of_next hreset 1).trans (run_succ_of_next hrequest 0), exec_request_begins hs'⟩

/-! ## Binding -/

theorem hostBind_of_idle {s : State} (t : Transport) (hp : s.phase = .idle) :
    hostBind t s = .next { s with transport := some t } := by
  rw [hostBind, (busy_eq_false s).mpr hp]
  rfl

theorem hostBind_of_busy {s : State} (t : Transport) (hp : s.phase ≠ .idle) : hostBind t s = .refused .bindWhileBusy :=
  if_pos ((busy_eq_true s).mpr hp)

/-- Settles O49: the step is the binding, which looks at nothing but whether the block is busy. -/
theorem bindingWhileIdle : Obligations.BindingWhileIdle := by
  intro s t rest h
  rw [step_of_host_action (by nofun) h, actionStep]
  exact ⟨hostBind_of_idle (s := { s with host := rest }) t, hostBind_of_busy (s := { s with host := rest }) t⟩

end Sys2Proof.Machine
